-- ==== Sys2Proof/Word.lean ====
section
/-! DEFINITION. The two bit-vector types of CORE: the 64-bit register word (R10) and the 8-bit byte (R14). -/

namespace Sys2Proof

/-- A 64-bit word: the value of every register of the window and of the command word (R10, R12). -/
abbrev Word := BitVec 64

/-- An 8-bit byte, the unit of BUF and of the counter (R14). -/
abbrev Byte := BitVec 8

end Sys2Proof
end

