-- ==== Sys2Proof/Syntax.lean ====
section
/-! DEFINITION. The commands of CORE (R57, one constructor per row of the opcode table), the transactions and
events the outside world puts to it (R40, R42, R67, R121), and what they answer. -/

namespace Sys2Proof

/-- A command, as the engine decodes it from the latched word (R57, R58).  No command carries an operand in its
word: all operands come from ARG0..ARG5 (R56).  An illegal command keeps the word it was decoded from. -/
inductive Instr where
  /-- No operation (R96). -/
  | nop
  /-- Counter add (R72). -/
  | cadd
  /-- Keystream generate (R75). -/
  | kgen
  /-- XOR apply (R86). -/
  | xapply
  /-- Round up to a multiple of 16 (R83). -/
  | nm16
  /-- Hash-derived keystream, not implemented (R85). -/
  | hgen
  /-- Every other word: RSV not 0, or OPC in 0x06..0xFF (R97). -/
  | illegal (w : Word)
  deriving DecidableEq, Repr

/-- What the outside world does to CORE: one host transaction (R66), the host's polling loop WAIT (R67), the
reset input (R121), or power-on (R121, R123).  Widths are in bytes, `off` is an offset in the register window,
`addr` a BUF address. -/
inductive Input where
  /-- Register write `REG.W off v` of the given width (R42). -/
  | regWrite (width off : Nat) (v : Word)
  /-- Register read `REG.R off` of the given width (R42). -/
  | regRead (width off : Nat)
  /-- BUF write `BUF.W<width> addr v` (R40).  The value is the low `width` bytes of `v`. -/
  | bufWrite (width addr : Nat) (v : Word)
  /-- BUF read `BUF.R<width> addr` (R40). -/
  | bufRead (width addr : Nat)
  /-- `WAIT`: read STATUS again until a read returns BUSY = 0 (R67). -/
  | wait
  /-- The reset input is asserted and stays so while the next `hold` host transactions arrive (R121). -/
  | reset (hold : Nat)
  /-- Power-on: a reset with BUF = `POWER_ON_BUF`, given as the bytes that are not 0 (R121, R123). -/
  | powerOn (contents : List Host.Cell) (hold : Nat)
  deriving DecidableEq, Repr

/-- What a host transaction answers. -/
inductive Reply where
  /-- The transaction was carried out and returns no value: a write, or a reset event. -/
  | ack
  /-- A read returned this value (R40, R42). -/
  | value (v : Word)
  /-- The transaction was refused with a bus error (R41, R42, R109). -/
  | busError
  /-- The transaction arrived while reset was asserted (R121). -/
  | ignored
  deriving DecidableEq, Repr

/-- Is this input a host transaction (or the host's WAIT loop, which is made of register reads)?  The others come
from the reset input and the power supply. -/
def Input.isTransaction : Input → Bool
  | .regWrite _ _ _ => true
  | .regRead _ _ => true
  | .bufWrite _ _ _ => true
  | .bufRead _ _ => true
  | .wait => true
  | .reset _ => false
  | .powerOn _ _ => false

/-- The command pseudo-instructions of the host notation (R68).  A negative operand -k is the word 2^64 - k. -/
inductive Pseudo where
  | nop
  | cadd (addr delta : Word)
  | kgen (seedAddr seedLen outAddr outLen size offset : Word)
  | xapply (srcAddr srcLen keyAddr keyLen length keyOffset : Word)
  | nm16 (n : Word)
  | hgen
  /-- Byte-string write. -/
  | bws (addr : Nat) (bytes : List Byte)
  /-- Byte-string read. -/
  | brs (addr n : Nat)
  deriving DecidableEq, Repr

end Sys2Proof
end

