-- ==== Sys2Proof/WellFormed.lean ====
section
/-! DEFINITION. Which instructions and which host transactions are well formed. -/

namespace Sys2Proof

/-- An illegal command is well formed when its word really is one that names no command (R58, R65): RSV is not
0, or OPC is 0x06 or more.  The six commands carry nothing and are always well formed. -/
def Instr.wf : Instr → Bool
  | .nop => true
  | .cadd => true
  | .kgen => true
  | .xapply => true
  | .nm16 => true
  | .hgen => true
  | .illegal w => decide (w.extractLsb' 8 56 ≠ 0 ∨ 6 ≤ (w.extractLsb' 0 8).toNat)

/-- A host write of width n carries an n-byte value (R40, R42), and the bytes of a power-on content lie at
BUF addresses (R37).  The widths and addresses themselves are not restricted: the ports refuse what they do not
support (R41, R42). -/
def Input.wf : Input → Bool
  | .regWrite width _ v => decide (v.toNat < 256 ^ width)
  | .regRead _ _ => true
  | .bufWrite width _ v => decide (v.toNat < 256 ^ width)
  | .bufRead _ _ => true
  | .wait => true
  | .reset _ => true
  | .powerOn contents _ => contents.all fun c => decide (c.1 < 2 ^ 64)

end Sys2Proof
end

