-- ==== Sys2Proof/Decode.lean ====
section
/-! DEFINITION. Decoding of command words (R56 to R58), total on every word, and the encoder written from the same
opcode map. -/

namespace Sys2Proof

/-- The field OPC, bits 7:0 of a command word (R56). -/
def opcOf (w : Word) : BitVec 8 := w.extractLsb' 0 8

/-- The field RSV, bits 63:8 of a command word (R56). -/
def rsvOf (w : Word) : BitVec 56 := w.extractLsb' 8 56

/-- The command word with these two fields (R56). -/
def commandWord (rsv : BitVec 56) (opc : BitVec 8) : Word := rsv ++ opc

/-- The opcode map (R57).  OPC values that are not listed are reserved. -/
def opcodeMap : List (BitVec 8 × Instr) :=
  [(0x00, .nop), (0x01, .cadd), (0x02, .kgen), (0x03, .xapply), (0x04, .nm16), (0x05, .hgen)]

/-- The command that a 64-bit word is (R58).  Total: a word that names no command is illegal. -/
def decode (w : Word) : Instr :=
  if rsvOf w = 0 then (opcodeMap.lookup (opcOf w)).getD (.illegal w) else .illegal w

/-- The command word of a well-formed instruction (R56, R57). -/
def encode : Instr → Word
  | .nop => commandWord 0 0x00
  | .cadd => commandWord 0 0x01
  | .kgen => commandWord 0 0x02
  | .xapply => commandWord 0 0x03
  | .nm16 => commandWord 0 0x04
  | .hgen => commandWord 0 0x05
  | .illegal w => w

/-- Why a string of bits is no command at all. -/
inductive DecodeReject where
  /-- It is longer than the one 64-bit word every command is (R56, R65). -/
  | notOneWord (nbits : Nat)
  deriving DecidableEq, Repr

/-- The word of a command whose low `nbits` bits are given and whose higher bits are 0.  A register has no
byte lanes (R42): the word is its 64-bit value. -/
def tableWord (nbits w : Nat) : Word := BitVec.ofNat 64 (w % 2 ^ nbits)

/-- Decode the low `nbits` bits of `w`, rejecting by name what is longer than a command. -/
def decodeBits (nbits w : Nat) : Except DecodeReject Instr :=
  if nbits ≤ 64 then .ok (decode (tableWord nbits w)) else .error (.notOneWord nbits)

/-- The instruction the decoder reads from a row of the opcode table. -/
def decodeTableWord (nbits w : Nat) : Option Instr := (decodeBits nbits w).toOption

end Sys2Proof
end

