-- ==== Sys2Proof/Config.lean ====
section
/-! DEFINITION. What one implementation of CORE fixes (R11), and the free values of this model: constants
with no body, so that no proof can lean on a number. -/

namespace Sys2Proof.Config

/-- The number from which `memSize` is taken.  Nothing constrains it. -/
opaque memSizeParam : Nat

/-- `MEM_SIZE` of the machine that `State.reset` describes (R11).  R11 admits exactly the integers from 16 to
2^64: every one of them is a possible value here, and no other.  A state carries its own `memSize`, so a
statement about every state is a statement about every admissible size. -/
def memSize : Nat := max 16 (min memSizeParam (2 ^ 64))

/-- `REG_BASE`, the host address of the register window (R11).  No rule of CORE reads it. -/
opaque regBase : Nat

/-- `BUF_BASE`, the host address of BUF (R11).  No rule of CORE reads it. -/
opaque bufBase : Nat

/-- The completion delay of R131 for the n-th draw: how many host transactions may take effect between a
command's acceptance and its completion step.  Finite, and otherwise free. -/
opaque completionDelay : Nat → Nat

/-- The byte at a BUF address that a race leaves in a command's write footprint (R126), by draw and address. -/
opaque racedByte : Nat → Nat → Byte

/-- The byte a host read of a busy command's write footprint returns (R126), by draw and address. -/
opaque racedReadByte : Nat → Nat → Byte

/-- The byte at a BUF address that a reset leaves in an aborted command's write footprint (R122), by draw and
address. -/
opaque abortedByte : Nat → Nat → Byte

/-- The command word in the latch outside the `busy` phase (R31), by draw. -/
opaque idleLatchWord : Nat → Word

/-- Argument i in the latch outside the `busy` phase (R31), by draw and argument number. -/
opaque idleLatchArg : Nat → Nat → Word

/-- Byte j of CTR outside a KGEN command (R32), by draw and index. -/
opaque idleCtrByte : Nat → Nat → Byte

end Sys2Proof.Config
end

