-- ==== Sys2Proof/Machine/State.lean ====
section
/-! DEFINITION. The state of CORE (R18), the reasons a step can stop, and the state after power-on and reset. -/

namespace Sys2Proof.Machine

/-- Why the machine stops with a fault: there is no reason.  CORE raises no trap (R101), refuses a bad host
access with a bus error that changes nothing (R109), and reports every command error in STATUS.ERR; none of
these ends a run, so no constructor exists.  Safe: nothing is hidden behind a fault. -/
inductive Fault where
  deriving DecidableEq, Repr

/-- Why the machine has no meaning for an instruction. -/
inductive Refusal where
  /-- The instruction is not modelled yet.  Raised by the arms of `exec` only, and at present by none of them.
  Safe. -/
  | notModelled (mnemonic : String)
  deriving DecidableEq, Repr

/-- The engine phase (R18, R24), mirrored by STATUS.BUSY. -/
inductive Phase where
  | idle
  | busy
  deriving DecidableEq, Repr

/-- The contents of STATUS.ERR (R26, R101).  The codes 0x05..0xFF are never produced. -/
inductive ErrCode where
  | ok
  | invalidArgument
  | outOfBounds
  | notImplemented
  | illegalCommand
  deriving DecidableEq, Repr

/-- The errors that the pseudocode of a command can raise (R101). -/
inductive CmdError where
  | invalidArgument
  | outOfBounds
  | notImplemented
  | illegalCommand
  deriving DecidableEq, Repr

/-- A 16-byte counter; index 0 is the most significant byte (R14, R32). -/
abbrev Counter := Vector Byte 16

/-- The command latch (R31). -/
structure Latch where
  /-- OPC, bits 7:0 of the accepted word. -/
  opc : BitVec 8
  /-- RSV, bits 63:8 of the accepted word. -/
  rsv : BitVec 56
  /-- The copies x[0..5] of ARG0..ARG5. -/
  x : Vector Word 6
  deriving DecidableEq, Repr

/-- The contents of BUF (R33): the bytes that differ from `unlistedByte`, addresses strictly rising. -/
abbrev Memory := List Host.Cell

/-- The state of CORE (R18), followed by the host and environment side of the model.  Plain data. -/
structure State where
  /-- `MEM_SIZE`, the parameter of R11.  No step changes it. -/
  memSize : Nat
  /-- ARG0..ARG5 (R20). -/
  args : Vector Word 6
  /-- RESULT (R21). -/
  result : Word
  /-- The engine phase; STATUS.BUSY is 1 exactly in `busy` (R24). -/
  phase : Phase
  /-- STATUS.DONE (R25). -/
  done : Bool
  /-- STATUS.DROPPED (R27). -/
  dropped : Bool
  /-- STATUS.ERR (R26). -/
  err : ErrCode
  /-- The command latch (R31). -/
  latch : Latch
  /-- The working counter CTR (R32). -/
  ctr : Counter
  /-- BUF (R33). -/
  buf : Memory
  /-- The model's own: the host's transactions and the reset events still to come, in order (R5, R49(a)). -/
  inputs : List Input
  /-- The model's own: the inputs that have taken effect with what each answered, the newest first. -/
  transcript : List (Input × Reply)
  /-- The model's own: how many host steps the busy engine still lets pass before its completion step (R131). -/
  delay : Nat
  /-- The model's own: completion delays given for the next acceptances; when it is empty they are free (R131). -/
  delays : List Nat
  /-- The model's own: the host has written into the busy command's footprint (R126). -/
  raced : Bool
  /-- The model's own: how many host transactions still arrive while reset is asserted (R121). -/
  resetHold : Nat
  /-- The model's own: the number of the next draw of a free value. -/
  draws : Nat
  deriving DecidableEq, Repr

/-- Six registers of 0. -/
def zeroArgs : Vector Word 6 := ⟨#[0, 0, 0, 0, 0, 0], rfl⟩

/-- Sixteen bytes of 0. -/
def zeroCounter : Counter := ⟨#[0, 0, 0, 0, 0, 0, 0, 0, 0, 0, 0, 0, 0, 0, 0, 0], rfl⟩

/-- The machine right after power-on with these two parameters of R11: `MEM_SIZE`, and `POWER_ON_BUF` in the
canonical form of `Memory`.  Registers as R36 gives them; the latch and CTR, unspecified there, hold 0
(DESIGN CHOICE, notes/assumptions/3.md).  The host has not done anything yet. -/
def State.powerOn (memSize : Nat) (powerOnBuf : Memory) : State where
  memSize := memSize
  args := zeroArgs
  result := 0
  phase := .idle
  done := false
  dropped := false
  err := .ok
  latch := ⟨0, 0, zeroArgs⟩
  ctr := zeroCounter
  buf := powerOnBuf
  inputs := []
  transcript := []
  delay := 0
  delays := []
  raced := false
  resetHold := 0
  draws := 0

/-- The machine right after reset (R36, R121): `Config.memSize` bytes of BUF, of which nothing is listed
(DESIGN CHOICE, notes/assumptions/2.md). -/
def State.reset : State := State.powerOn Config.memSize []

end Sys2Proof.Machine
end

