-- ==== Sys2Proof/Machine/Operands.lean ====
section
/-! DEFINITION. How operands are read: signed and unsigned views, big-endian numbers, rounding to 16, buffer
descriptors, and the arguments of each command (R13, R14, R17, R44, R59 to R64). -/

namespace Sys2Proof.Machine

/-- The unsigned view of a 64-bit word (R13). -/
def u64 (v : Word) : Nat := v.toNat

/-- The signed view of a 64-bit word (R13). -/
def s64 (v : Word) : Int := if v.getLsbD 63 then (v.toNat : Int) - 2 ^ 64 else v.toNat

/-- The big-endian value of a byte sequence (R14): its first byte is the most significant. -/
def be : List Byte → Nat
  | [] => 0
  | b :: bs => b.toNat * 256 ^ bs.length + be bs

/-- `bytes_be_n(v)`: the n bytes of v, the most significant first (R14). -/
def bytesBE : Nat → Nat → List Byte
  | 0, _ => []
  | n + 1, v => BitVec.ofNat 8 (v / 256 ^ n) :: bytesBE n v

/-- The smallest multiple of 16 that is not below n (R17), by the formula of R84. -/
def nm16 (n : Int) : Int := n + (16 - n % 16) % 16

/-- The number of 16-byte blocks that hold `size` bytes (R17). -/
def blocks (size : Int) : Nat := (nm16 size / 16).toNat

/-- A buffer descriptor lies in BUF (R44).  The sum is over the integers and cannot wrap. -/
def inBuf (memSize a n : Nat) : Bool := decide (a + n ≤ memSize)

/-- The operands of CADD (R60). -/
structure CaddArgs where
  ctrAddr : Nat
  delta : Word
  deriving DecidableEq, Repr

/-- The operands of KGEN (R61). -/
structure KgenArgs where
  seedAddr : Nat
  seedLen : Nat
  outAddr : Nat
  outLen : Nat
  size : Int
  offset : Int
  deriving DecidableEq, Repr

/-- The operands of XAPPLY (R62). -/
structure XapplyArgs where
  srcAddr : Nat
  srcLen : Nat
  keyAddr : Nat
  keyLen : Nat
  length : Int
  keyOffset : Int
  deriving DecidableEq, Repr

/-- CADD reads x[0] and x[1] (R60). -/
def caddArgs (x : Vector Word 6) : CaddArgs where
  ctrAddr := u64 x[0]
  delta := x[1]

/-- KGEN reads all six arguments (R61). -/
def kgenArgs (x : Vector Word 6) : KgenArgs where
  seedAddr := u64 x[0]
  seedLen := u64 x[1]
  outAddr := u64 x[2]
  outLen := u64 x[3]
  size := s64 x[4]
  offset := s64 x[5]

/-- XAPPLY reads all six arguments (R62). -/
def xapplyArgs (x : Vector Word 6) : XapplyArgs where
  srcAddr := u64 x[0]
  srcLen := u64 x[1]
  keyAddr := u64 x[2]
  keyLen := u64 x[3]
  length := s64 x[4]
  keyOffset := s64 x[5]

/-- NM16 reads N from x[0] (R63). -/
def nm16Arg (x : Vector Word 6) : Int := s64 x[0]

/-- The BUF address of the first key byte XAPPLY uses (R87). -/
def XapplyArgs.keyStart (a : XapplyArgs) : Nat := a.keyAddr + a.keyOffset.toNat

end Sys2Proof.Machine
end

