-- ==== Sys2Proof/Machine/Checks.lean ====
section
/-! DEFINITION. The checks of each command in the order its rule lists them (R72, R75, R83, R86, R108), and the
footprints of the commands that pass them (R45). -/

namespace Sys2Proof.Machine

/-- The first check that fails decides the error (R108). Each entry is a failing condition and its error. -/
def firstError : List (Bool × CmdError) → Option CmdError
  | [] => none
  | (fails, e) :: rest => if fails then some e else firstError rest

/-- The check of CADD (R72). -/
def caddError (memSize : Nat) (a : CaddArgs) : Option CmdError :=
  firstError [(!inBuf memSize a.ctrAddr 16, .outOfBounds)]

/-- The checks K1 to K6 of KGEN (R75). -/
def kgenError (memSize : Nat) (a : KgenArgs) : Option CmdError :=
  firstError
    [(decide (a.seedLen ≠ 16), .invalidArgument),
     (decide (a.size < 0), .invalidArgument),
     (decide (a.offset < 0), .invalidArgument),
     (!inBuf memSize a.seedAddr 16, .outOfBounds),
     (!inBuf memSize a.outAddr a.outLen, .outOfBounds),
     (decide ((a.outLen : Int) < nm16 a.size), .outOfBounds)]

/-- The source and the used key bytes overlap: check X7 of XAPPLY (R86, R88). -/
def xapplyOverlap (a : XapplyArgs) : Bool :=
  decide (0 < a.length) && decide ((a.srcAddr : Int) < a.keyAddr + a.keyOffset + a.length)
    && decide ((a.keyAddr : Int) + a.keyOffset < a.srcAddr + a.length)

/-- The checks X1 to X7 of XAPPLY (R86). -/
def xapplyError (memSize : Nat) (a : XapplyArgs) : Option CmdError :=
  firstError
    [(decide (a.length < 0), .invalidArgument),
     (decide (a.keyOffset < 0), .invalidArgument),
     (!inBuf memSize a.srcAddr a.srcLen, .outOfBounds),
     (!inBuf memSize a.keyAddr a.keyLen, .outOfBounds),
     (decide ((a.srcLen : Int) < a.length), .outOfBounds),
     (decide ((a.keyLen : Int) < a.keyOffset + a.length), .outOfBounds),
     (xapplyOverlap a, .invalidArgument)]

/-- The check of NM16: its result must be an int64 (R83). -/
def nm16Error (n : Int) : Option CmdError :=
  firstError [(decide (nm16 n > 2 ^ 63 - 1), .invalidArgument)]

/-- The error that a command with these latched arguments raises, if any (R102 to R105). -/
def checkError (memSize : Nat) (x : Vector Word 6) : Instr → Option CmdError
  | .nop => none
  | .cadd => caddError memSize (caddArgs x)
  | .kgen => kgenError memSize (kgenArgs x)
  | .xapply => xapplyError memSize (xapplyArgs x)
  | .nm16 => nm16Error (nm16Arg x)
  | .hgen => some .notImplemented
  | .illegal _ => some .illegalCommand

/-- The BUF bytes `[start, start + len)`. -/
structure Span where
  start : Nat
  len : Nat
  deriving DecidableEq, Repr

/-- No bytes. -/
def Span.empty : Span := ⟨0, 0⟩

/-- The address is one of the span's bytes. -/
def Span.contains (sp : Span) (a : Nat) : Bool := decide (sp.start ≤ a ∧ a < sp.start + sp.len)

/-- One of the n bytes from address a is one of the span's bytes. -/
def Span.meets (sp : Span) (a n : Nat) : Bool := (List.range n).any fun j => sp.contains (a + j)

/-- The 16 counter bytes of CADD (R45). -/
def CaddArgs.span (a : CaddArgs) : Span := ⟨a.ctrAddr, 16⟩

/-- The bytes KGEN writes: whole blocks (R45, R78). -/
def KgenArgs.span (a : KgenArgs) : Span := ⟨a.outAddr, (nm16 a.size).toNat⟩

/-- The bytes XAPPLY writes (R45). -/
def XapplyArgs.span (a : XapplyArgs) : Span := ⟨a.srcAddr, a.length.toNat⟩

/-- The write footprint of a command with these latched arguments (R45): empty unless it passes all its
checks. -/
def writeSpan (memSize : Nat) (x : Vector Word 6) (i : Instr) : Span :=
  if (checkError memSize x i).isSome then Span.empty
  else match i with
    | .nop => Span.empty
    | .cadd => (caddArgs x).span
    | .kgen => (kgenArgs x).span
    | .xapply => (xapplyArgs x).span
    | .nm16 => Span.empty
    | .hgen => Span.empty
    | .illegal _ => Span.empty

/-- The read footprint of a command with these latched arguments (R45): empty unless it passes all its checks,
since a failed command reads nothing (R106). -/
def readSpans (memSize : Nat) (x : Vector Word 6) (i : Instr) : List Span :=
  if (checkError memSize x i).isSome then []
  else match i with
    | .nop => []
    | .cadd => [(caddArgs x).span]
    | .kgen => [⟨(kgenArgs x).seedAddr, 16⟩]
    | .xapply => [⟨(xapplyArgs x).keyStart, (xapplyArgs x).length.toNat⟩, (xapplyArgs x).span]
    | .nm16 => []
    | .hgen => []
    | .illegal _ => []

end Sys2Proof.Machine
end

