-- ==== Sys2Proof/Machine/Flags.lean ====
section
/-! DEFINITION. STATUS: its error codes, the word the host reads, and how each event changes its fields
(R23 to R28, R92 to R94). -/

namespace Sys2Proof.Machine

/-- The 8-bit code of an outcome (R26, R101). -/
def ErrCode.toByte : ErrCode → Byte
  | .ok => 0x00
  | .invalidArgument => 0x01
  | .outOfBounds => 0x02
  | .notImplemented => 0x03
  | .illegalCommand => 0x04

/-- The outcome code of a raised error (R101). -/
def CmdError.code : CmdError → ErrCode
  | .invalidArgument => .invalidArgument
  | .outOfBounds => .outOfBounds
  | .notImplemented => .notImplemented
  | .illegalCommand => .illegalCommand

/-- STATUS.BUSY (R24). -/
def State.busy (s : State) : Bool := decide (s.phase = .busy)

/-- The 64-bit value of STATUS (R23): BUSY bit 0, DONE bit 1, DROPPED bit 2, ERR bits 15:8, all others 0. -/
def State.status (s : State) : Word :=
  (0 : BitVec 48) ++ s.err.toByte ++ (0 : BitVec 5) ++ BitVec.ofBool s.dropped ++ BitVec.ofBool s.done
    ++ BitVec.ofBool s.busy

/-- STATUS and the phase at acceptance (R24 to R27, R92): DROPPED is kept. -/
def State.flagsAccepted (s : State) : State :=
  { s with phase := .busy, done := false, err := .ok }

/-- STATUS and the phase at completion with an outcome code (R24 to R27, R93): DROPPED is kept. -/
def State.flagsCompleted (e : ErrCode) (s : State) : State :=
  { s with phase := .idle, done := true, err := e }

/-- A dropped issue sets DROPPED (R27, R94). -/
def State.flagsDropped (s : State) : State := { s with dropped := true }

/-- A host write to STATUS clears DROPPED where bit 2 of the value is 1 and does nothing else (R28). -/
def State.writeStatus (v : Word) (s : State) : State :=
  { s with dropped := s.dropped && !v.getLsbD 2 }

/-- STATUS and the phase after reset (R36, R121). -/
def State.flagsReset (s : State) : State :=
  { s with phase := .idle, done := false, dropped := false, err := .ok }

end Sys2Proof.Machine
end

