-- ==== Sys2Proof/Machine/Ops.lean ====
section
/-! DEFINITION. The named operations over BUF, the registers and the engine: memory access (R16, R33), the register
window (R19, R42), acceptance and completion of a command (R92, R93), raising an error (R106), what a race or an
abort leaves in BUF (R122, R126), and reset (R121). -/

namespace Sys2Proof.Machine

/-! ### BUF -/

/-- What a BUF byte holds while `Memory` lists nothing for it (DESIGN CHOICE, notes/assumptions/2.md). -/
def unlistedByte : Byte := 0

/-- Every address of the list is above `a`. -/
def Memory.above (a : Nat) (m : Memory) : Bool := m.all fun c => decide (a < c.1)

/-- The canonical form: addresses strictly rising, and no byte that an unlisted address holds anyway. -/
def Memory.wf : Memory → Bool
  | [] => true
  | (k, b) :: m => decide (b ≠ unlistedByte) && Memory.above k m && Memory.wf m

/-- Every listed address is below n. -/
def Memory.below (n : Nat) (m : Memory) : Bool := m.all fun c => decide (c.1 < n)

/-- One byte of BUF (R33). -/
def readByte : Memory → Nat → Byte
  | [], _ => unlistedByte
  | (k, b) :: m, a => if k = a then b else readByte m a

/-- Write one byte of BUF, keeping the canonical form (R33). -/
def writeByte : Memory → Nat → Byte → Memory
  | [], a, v => if v = unlistedByte then [] else [(a, v)]
  | (k, b) :: m, a, v =>
    if a < k then (if v = unlistedByte then (k, b) :: m else (a, v) :: (k, b) :: m)
    else if a = k then (if v = unlistedByte then m else (k, v) :: m)
    else (k, b) :: writeByte m a v

/-- `MemRead(a, n)`: the n bytes from address a (R16). -/
def readBytes (m : Memory) (a : Nat) : Nat → List Byte
  | 0 => []
  | n + 1 => readByte m a :: readBytes m (a + 1) n

/-- `MemWrite(a, n, v)`: the bytes of v, its first byte at the lowest address (R16). -/
def writeBytes (m : Memory) (a : Nat) : List Byte → Memory
  | [] => m
  | b :: bs => writeBytes (writeByte m a b) (a + 1) bs

/-- The 16-byte counter stored at address a (R38). -/
def loadCounter (m : Memory) (a : Nat) : Counter := Vector.ofFn fun j : Fin 16 => readByte m (a + j)

/-- Store a 16-byte counter at address a (R38, R39). -/
def storeCounter (m : Memory) (a : Nat) (c : Counter) : Memory := writeBytes m a c.toList

/-- The bytes that `f` gives for the addresses of a span, in order. -/
def spanBytes (f : Nat → Byte) (sp : Span) : List Byte := (List.range sp.len).map fun j => f (sp.start + j)

/-- Every byte of the span takes the value that `f` gives for its address. -/
def fillSpan (f : Nat → Byte) (sp : Span) (m : Memory) : Memory := writeBytes m sp.start (spanBytes f sp)

/-- The contents of a BUF of n bytes in canonical form, from a list of bytes and their addresses (R123). -/
def loadBuf (n : Nat) : List Host.Cell → Memory
  | [] => []
  | (a, b) :: cells => if a < n then writeByte (loadBuf n cells) a b else loadBuf n cells

/-! ### The register window -/

/-- The registers that the 8-byte slots of the window hold (R19). -/
inductive RegName where
  | cmd
  | status
  | result
  | arg (i : Fin 6)
  | reserved
  deriving DecidableEq, Repr

/-- The register at an offset of the window (R19). -/
def regAt (off : Nat) : RegName :=
  if off = 0x00 then .cmd
  else if off = 0x08 then .status
  else if off = 0x10 then .result
  else if off = 0x20 then .arg 0
  else if off = 0x28 then .arg 1
  else if off = 0x30 then .arg 2
  else if off = 0x38 then .arg 3
  else if off = 0x40 then .arg 4
  else if off = 0x48 then .arg 5
  else .reserved

/-- What the register port serves: 8 bytes at a multiple of 8 in [0x00, 0xF8] (R42). -/
def regPortServes (width off : Nat) : Bool := decide (width = 8 ∧ off % 8 = 0 ∧ off < 0x100)

/-- What the BUF port serves: 1, 2, 4 or 8 bytes, aligned to their width, inside BUF (R40, R41). -/
def bufPortServes (memSize width addr : Nat) : Bool :=
  decide ((width = 1 ∨ width = 2 ∨ width = 4 ∨ width = 8) ∧ addr % width = 0 ∧ addr + width ≤ memSize)

/-- The value a register read returns (R19 to R23, R42). It changes nothing (R98). -/
def readReg (s : State) : RegName → Word
  | .cmd => 0
  | .status => s.status
  | .result => s.result
  | .arg i => s.args[i]
  | .reserved => 0

/-! ### The life of a command -/

/-- The command word in the latch (R31). -/
def Latch.word (l : Latch) : Word := commandWord l.rsv l.opc

/-- The command in the latch (R58). -/
def State.latched (s : State) : Instr := decode s.latch.word

/-- The write footprint of the command in the latch (R45). -/
def State.latchedWrites (s : State) : Span := writeSpan s.memSize s.latch.x s.latched

/-- The read footprint of the command in the latch (R45). -/
def State.latchedReads (s : State) : List Span := readSpans s.memSize s.latch.x s.latched

/-- Acceptance of a command word: the latch takes the word and the arguments, and STATUS shows a busy engine
(R92). -/
def State.latchCommand (w : Word) (s : State) : State :=
  { s.flagsAccepted with latch := ⟨opcOf w, rsvOf w, s.args⟩, raced := false }

/-- Take the completion delay of a command just accepted: the first of the given ones, else a free one
(R131). -/
def State.drawDelay (s : State) : State :=
  match s.delays with
  | d :: ds => { s with delay := d, delays := ds }
  | [] => { s with delay := Config.completionDelay s.draws, draws := s.draws + 1 }

/-- A command issue: accepted when the engine is idle (R92), dropped when it is busy (R94). -/
def State.issue (w : Word) (s : State) : State :=
  match s.phase with
  | .idle => (s.latchCommand w).drawDelay
  | .busy => s.flagsDropped

/-- What the latch holds outside the `busy` phase, by draw: any value (R31). -/
def idleLatch (n : Nat) : Latch where
  opc := opcOf (Config.idleLatchWord n)
  rsv := rsvOf (Config.idleLatchWord n)
  x := Vector.ofFn fun i : Fin 6 => Config.idleLatchArg n i

/-- What CTR holds outside a KGEN command, by draw: any value (R32). -/
def idleCtr (n : Nat) : Counter := Vector.ofFn fun j : Fin 16 => Config.idleCtrByte n j

/-- CTR at the end of a KGEN command (R32). -/
def State.forgetCtr (s : State) : State := { s with ctr := idleCtr s.draws, draws := s.draws + 1 }

/-- The last part of the completion step: the outcome code, DONE and BUSY (R93), and the end of the latch's
life (R31). -/
def State.endCommand (e : ErrCode) (s : State) : State :=
  { s.flagsCompleted e with latch := idleLatch s.draws, delay := 0, raced := false, draws := s.draws + 1 }

/-- TAKING AN ERROR: `raise E` ends the command with no write to BUF or RESULT, ERR the code of E, DONE 1 and BUSY
0 (R106, R111).  Nothing else is saved and there is no return from it: the next acceptance clears ERR and DONE
(R112, `State.latchCommand`). -/
def State.raiseError (e : CmdError) (s : State) : State := s.endCommand e.code

/-- After a race every byte of the command's write footprint is free (R126). -/
def State.settleRace (sp : Span) (s : State) : State :=
  if s.raced then { s with buf := fillSpan (Config.racedByte s.draws) sp s.buf, draws := s.draws + 1 } else s

/-- The completion step of a command (R93): its error if a check fails, else the effect of its pseudocode with
outcome OK.  `sp` is its write footprint. -/
def State.conclude (err : Option CmdError) (sp : Span) (body : State → State) (s : State) : State :=
  match err with
  | some e => s.raiseError e
  | none => ((body s).settleRace sp).endCommand .ok

/-! ### Reset -/

/-- What an abort leaves in BUF: if the engine is busy, every byte of the latched command's write footprint is
free (R122). -/
def State.abort (s : State) : State :=
  match s.phase with
  | .idle => s
  | .busy => { s with buf := fillSpan (Config.abortedByte s.draws) s.latchedWrites s.buf, draws := s.draws + 1 }

/-- The registers and the engine at reset (R36, R121); the latch and CTR are free. -/
def State.resetRegs (hold : Nat) (s : State) : State :=
  { s.flagsReset with
    args := zeroArgs, result := 0, latch := idleLatch s.draws, ctr := idleCtr s.draws, delay := 0, raced := false,
    resetHold := hold, draws := s.draws + 1 }

/-- The reset event (R121, R122, R123), with reset asserted while the next `hold` transactions arrive. -/
def State.resetEvent (hold : Nat) (s : State) : State := s.abort.resetRegs hold

/-- Power-on: a reset with new contents of BUF (R121, R123). -/
def State.powerOnEvent (contents : List Host.Cell) (hold : Nat) (s : State) : State :=
  { s.resetRegs hold with buf := loadBuf s.memSize contents }

end Sys2Proof.Machine
end

