-- ==== Sys2Proof/Machine/Control.lean ====
section
/-! DEFINITION. NOP (R96) and illegal commands (R97). -/

namespace Sys2Proof.Machine

/-- The completion step of NOP: no effect, outcome OK (R96). -/
def execNop (s : State) : Host.Outcome State Fault Refusal := .next (s.conclude none Span.empty id)

/-- The completion step of an illegal command: always ILLEGAL_COMMAND, whatever the word (R97). -/
def execIllegal (_w : Word) (s : State) : Host.Outcome State Fault Refusal := .next (s.raiseError .illegalCommand)

end Sys2Proof.Machine
end

