-- ==== Sys2Proof/Machine/Counter.lean ====
section
/-! DEFINITION. The counter family: the byte-serial add of R69 and R70, and CADD (R72). -/

namespace Sys2Proof.Machine

/-- Carry into position q - 1 and on toward lower indices; a carry out of index 0 is dropped (the loop of
R69). -/
def carryLeft : (q : Nat) → q ≤ 16 → Counter → Counter
  | 0, _, v => v
  | q + 1, h, v =>
    let old := v[q]
    let new := old + 1
    let v' := v.set q new
    if new < old then carryLeft q (Nat.le_of_succ_le h) v' else v'

/-- `add_byte_at(c, p, b)` (R69): the carry is seen by comparing, not by a flag. -/
def addByteAt (v : Counter) (p : Fin 16) (b : Byte) : Counter :=
  let old := v[p]
  let new := old + b
  let v' := v.set p new
  if new < old then carryLeft p (Nat.le_of_lt p.isLt) v' else v'

/-- Byte i of a 64-bit delta, i = 0 the most significant (R70). -/
def deltaByte (d : Word) (i : Fin 8) : Byte := d.extractLsb' (56 - 8 * i.val) 8

/-- `counter_add(c, d)`: delta byte i goes into position 8 + i, the most significant first (R70, R73). -/
def counterAdd (v : Counter) (d : Word) : Counter :=
  ([0, 1, 2, 3, 4, 5, 6, 7] : List (Fin 8)).foldl
    (fun v i => addByteAt v ⟨8 + i.val, by have := i.isLt; omega⟩ (deltaByte d i)) v

/-- The pseudocode of CADD after its check (R72). -/
def caddBody (a : CaddArgs) (s : State) : State :=
  { s with buf := storeCounter s.buf a.ctrAddr (counterAdd (loadCounter s.buf a.ctrAddr) a.delta) }

/-- The completion step of CADD (R72, R93). -/
def execCadd (s : State) : Host.Outcome State Fault Refusal :=
  .next (s.conclude (caddError s.memSize (caddArgs s.latch.x)) (caddArgs s.latch.x).span
    (caddBody (caddArgs s.latch.x)))

end Sys2Proof.Machine
end

