-- ==== Sys2Proof/Machine/Keystream.lean ====
section
/-! DEFINITION. The keystream family: KGEN (R75), NM16 (R83) and HGEN (R85). -/

namespace Sys2Proof.Machine

/-- Step 3 of KGEN with `k` strides to go, the next at byte `w` of the output (R75): copy CTR, then increment it by
one. -/
def kgenLoop (outAddr : Nat) : Nat → Nat → State → State
  | 0, _, s => s
  | k + 1, w, s =>
    kgenLoop outAddr k (w + 16)
      { s with buf := storeCounter s.buf (outAddr + w) s.ctr, ctr := counterAdd s.ctr 1 }

/-- Steps 1 and 2 of KGEN: CTR takes the seed, and the offset is added unscaled (R75, R79). -/
def kgenStart (a : KgenArgs) (s : State) : State :=
  { s with ctr := counterAdd (loadCounter s.buf a.seedAddr) (BitVec.ofInt 64 a.offset) }

/-- The pseudocode of KGEN after its checks: the seed is read before the first write (R75, R81), and whole strides
are written (R78). -/
def kgenBody (a : KgenArgs) (s : State) : State := kgenLoop a.outAddr (blocks a.size) 0 (kgenStart a s)

/-- The completion step of KGEN (R75, R93). CTR is unspecified afterwards (R32). -/
def execKgen (s : State) : Host.Outcome State Fault Refusal :=
  .next (s.conclude (kgenError s.memSize (kgenArgs s.latch.x)) (kgenArgs s.latch.x).span
    (kgenBody (kgenArgs s.latch.x))).forgetCtr

/-- The pseudocode of NM16 after its check: RESULT takes the rounded value as a two's-complement word (R83). -/
def nm16Body (n : Int) (s : State) : State := { s with result := BitVec.ofInt 64 (nm16 n) }

/-- The completion step of NM16 (R83, R93). -/
def execNm16 (s : State) : Host.Outcome State Fault Refusal :=
  .next (s.conclude (nm16Error (nm16Arg s.latch.x)) Span.empty (nm16Body (nm16Arg s.latch.x)))

/-- The completion step of HGEN: always NOT_IMPLEMENTED (R85). -/
def execHgen (s : State) : Host.Outcome State Fault Refusal := .next (s.raiseError .notImplemented)

end Sys2Proof.Machine
end

