-- ==== Sys2Proof/Machine/Xor.lean ====
section
/-! DEFINITION. The XOR applicator: XAPPLY (R86). -/

namespace Sys2Proof.Machine

/-- The lanes of XAPPLY with `k` to go, the next at index `i`: source byte i becomes its XOR with key byte i
(R86, R87). -/
def xorLoop (src key : Nat) : Nat → Nat → Memory → Memory
  | 0, _, m => m
  | k + 1, i, m =>
    xorLoop src key k (i + 1) (writeByte m (src + i) (readByte m (src + i) ^^^ readByte m (key + i)))

/-- The pseudocode of XAPPLY after its checks (R86). -/
def xapplyBody (a : XapplyArgs) (s : State) : State :=
  { s with buf := xorLoop a.srcAddr a.keyStart a.length.toNat 0 s.buf }

/-- The completion step of XAPPLY (R86, R93). -/
def execXapply (s : State) : Host.Outcome State Fault Refusal :=
  .next (s.conclude (xapplyError s.memSize (xapplyArgs s.latch.x)) (xapplyArgs s.latch.x).span
    (xapplyBody (xapplyArgs s.latch.x)))

end Sys2Proof.Machine
end

