-- ==== Sys2Proof/Machine/Dispatch.lean ====
section
/-! DEFINITION. Dispatch: the completion step of each command of the opcode table (R57, R93). -/

namespace Sys2Proof.Machine

def exec (i : Instr) (s : State) : Host.Outcome State Fault Refusal :=
  match i with
  | .nop => Sys2Proof.Machine.execNop s
  | .cadd => Sys2Proof.Machine.execCadd s
  | .kgen => Sys2Proof.Machine.execKgen s
  | .xapply => Sys2Proof.Machine.execXapply s
  | .nm16 => Sys2Proof.Machine.execNm16 s
  | .hgen => Sys2Proof.Machine.execHgen s
  | .illegal w => Sys2Proof.Machine.execIllegal w s

end Sys2Proof.Machine
end

