-- ==== Sys2Proof/Machine/HostPort.lean ====
section
/-! DEFINITION. The host's ports: the register window and BUF as the host reaches them (R40 to R42, R48), the race with
a busy engine (R126), WAIT (R67), and one step of the host. -/

namespace Sys2Proof.Machine

/-- The host address of a register (R37). -/
def regHostAddr (off : Nat) : Nat := Config.regBase + off

/-- The host address of a BUF byte (R37). -/
def bufHostAddr (addr : Nat) : Nat := Config.bufBase + addr

/-- The effect of a register write the port serves (R20 to R22, R28, R42). -/
def writeReg (r : RegName) (v : Word) (s : State) : State :=
  match r with
  | .cmd => s.issue v
  | .status => s.writeStatus v
  | .result => s
  | .arg i => { s with args := s.args.set i v }
  | .reserved => s

/-- A host write of n bytes from address a reaches a byte of the busy command's read or write footprint
(R126 (a)). -/
def State.writeRaces (s : State) (a n : Nat) : Bool :=
  s.busy && (s.latchedWrites.meets a n || s.latchedReads.any fun sp => sp.meets a n)

/-- A host read of n bytes from address a reaches a byte of the busy command's write footprint (R126 (b)). -/
def State.readRaces (s : State) (a n : Nat) : Bool := s.busy && s.latchedWrites.meets a n

/-- A host BUF write that the port serves: the value big-endian (R40). -/
def hostWriteBuf (n a : Nat) (v : Word) (s : State) : State :=
  { s with
    buf := writeBytes s.buf a (bytesBE n v.toNat)
    raced := s.raced || s.writeRaces a n }

/-- The value of a host BUF read that the port serves: big-endian (R40), and free where the read races with the
engine (R126). -/
def hostReadBuf (s : State) (n a : Nat) : Word :=
  BitVec.ofNat 64 (be (if s.readRaces a n then spanBytes (Config.racedReadByte s.draws) ⟨a, n⟩
    else readBytes s.buf a n))

/-- A racing read takes a draw of free bytes; any other read changes nothing (R48). -/
def drawRead (n a : Nat) (s : State) : State := if s.readRaces a n then { s with draws := s.draws + 1 } else s

/-- One host transaction or reset event, outside an asserted reset: the state after it and what it answers.  A
refused access changes nothing (R41, R42, R109). -/
def transact : Input → State → State × Reply
  | .regWrite width off v, s =>
    if regPortServes width off then (writeReg (regAt off) v s, .ack) else (s, .busError)
  | .regRead width off, s =>
    if regPortServes width off then (s, .value (readReg s (regAt off))) else (s, .busError)
  | .bufWrite width addr v, s =>
    if bufPortServes s.memSize width addr then (hostWriteBuf width addr v s, .ack) else (s, .busError)
  | .bufRead width addr, s =>
    if bufPortServes s.memSize width addr then (drawRead width addr s, .value (hostReadBuf s width addr))
    else (s, .busError)
  | .wait, s => (s, .value s.status)
  | .reset hold, s => (s.resetEvent hold, .ack)
  | .powerOn contents hold, s => (s.powerOnEvent contents hold, .ack)

/-- Reset is asserted and this input is a host transaction: it is ignored (R121). -/
def State.ignores (s : State) (inp : Input) : Bool := decide (0 < s.resetHold) && inp.isTransaction

/-- WAIT goes on: its STATUS read did not return BUSY = 0 (R67), or was ignored. -/
def State.keepsWaiting (s : State) (inp : Input) : Bool :=
  decide (inp = .wait) && (s.busy || decide (0 < s.resetHold))

/-- The effect and the answer of an input in any state: a transaction that arrives while reset is asserted has
no effect (R121). -/
def deliver (inp : Input) (s : State) : State × Reply :=
  if s.ignores inp then ({ s with resetHold := s.resetHold - 1 }, .ignored) else transact inp s

/-- A host step of a busy engine brings its completion one step nearer (R131). -/
def State.tick (s : State) : State := { s with delay := s.delay - 1 }

/-- The first input takes effect and is written into the transcript (R49 (a)). -/
def hostTakes (inp : Input) (rest : List Input) (s : State) : State :=
  { (deliver inp s.tick).1 with
    inputs := if s.keepsWaiting inp then inp :: rest else rest
    transcript := (inp, (deliver inp s.tick).2) :: s.transcript }

/-- One step of the host: the next input, if any.  With none left nothing happens (R120). -/
def hostStep (s : State) : State :=
  match s.inputs with
  | [] => s
  | inp :: rest => hostTakes inp rest s

end Sys2Proof.Machine
end

