-- ==== Sys2Proof/Machine/Step.lean ====
section
/-! DEFINITION. One step of CORE: the engine's completion step or the host's next transaction (R5, R93, R131). -/

namespace Sys2Proof.Machine

/-- The engine moves next: it is busy, and its delay has run out or the host has nothing left to do (R131). -/
def State.engineTurn (s : State) : Bool := s.busy && (decide (s.delay = 0) || s.inputs.isEmpty)

/-- One step: the engine decodes the latch and completes the command (R93), or the host moves. -/
def step (s : State) : Host.Outcome State Fault Refusal :=
  if s.engineTurn then exec s.latched s else .next (hostStep s)

/-- `s` with the command whose low `nbits` bits are `w` just accepted and the engine to move next: the latch holds
its word and the values of ARG0..ARG5 (R31, R92), reset is released, and no delay is left. -/
def State.withFetchWord (s : State) (nbits w : Nat) : State :=
  { s.latchCommand (tableWord nbits w) with delay := 0, resetHold := 0 }

end Sys2Proof.Machine
end

