-- ==== Sys2Proof/Machine/HostProgram.lean ====
section
/-! DEFINITION. The host notation (R66 to R68): the register names, what the pseudo-instructions expand to, and the
two written forms of a transaction. -/

namespace Sys2Proof.Machine

/-! ### Expansion -/

/-- The offset of a named register (R19); a reserved slot has no name. -/
def RegName.offset : RegName → Option Nat
  | .cmd => some 0x00
  | .status => some 0x08
  | .result => some 0x10
  | .arg i => some (0x20 + 8 * i)
  | .reserved => none

/-- `W ARGi, v` (R66). -/
def writeArg (i : Fin 6) (v : Word) : Input := .regWrite 8 (0x20 + 8 * i) v

/-- `W ARG0, v0; W ARG1, v1; ...`, in ascending order (R68). -/
def writeArgs (vs : List Word) : List Input :=
  vs.zipIdx.map fun vi => .regWrite 8 (0x20 + 8 * vi.2) vi.1

/-- `W CMD, opc; WAIT` with RSV = 0 (R68). -/
def issueAndWait (opc : BitVec 8) : List Input := [.regWrite 8 0x00 (commandWord 0 opc), .wait]

/-- The transactions of a pseudo-instruction (R68).  Arguments the command leaves unused are not written. -/
def expandPseudo : Pseudo → List Input
  | .nop => issueAndWait 0x00
  | .cadd a d => writeArgs [a, d] ++ issueAndWait 0x01
  | .kgen sa sl oa ol size off => writeArgs [sa, sl, oa, ol, size, off] ++ issueAndWait 0x02
  | .xapply sa sl ka kl len koff => writeArgs [sa, sl, ka, kl, len, koff] ++ issueAndWait 0x03
  | .nm16 n => writeArgs [n] ++ issueAndWait 0x04
  | .hgen => issueAndWait 0x05
  | .bws a bs => bs.zipIdx.map fun bj => .bufWrite 1 (a + bj.2) (bj.1.setWidth 64)
  | .brs a n => (List.range n).map fun j => .bufRead 1 (a + j)

/-! ### Written forms -/

/-- One hexadecimal digit. -/
def hexDigit (d : Nat) : Char :=
  ['0', '1', '2', '3', '4', '5', '6', '7', '8', '9', 'A', 'B', 'C', 'D', 'E', 'F'].getD d '?'

/-- The low k hexadecimal digits of n, the most significant first. -/
def hexDigits : Nat → Nat → List Char
  | 0, _ => []
  | k + 1, n => hexDigit (n / 16 ^ k % 16) :: hexDigits k n

/-- How many hexadecimal digits n needs, trying at most `fuel` of them. -/
def hexLength : Nat → Nat → Nat
  | 0, _ => 0
  | fuel + 1, n => if n = 0 then 0 else hexLength fuel (n / 16) + 1

/-- An address or offset: `0x` and at least two digits, as the listings of R66 write it. -/
def hexAddr (n : Nat) : List Char := ['0', 'x'] ++ hexDigits (max 2 (hexLength 16 n)) n

/-- The name of a register in a statement (R66). -/
def RegName.text : RegName → Option (List Char)
  | .cmd => some ['C', 'M', 'D']
  | .status => some ['S', 'T', 'A', 'T', 'U', 'S']
  | .result => some ['R', 'E', 'S', 'U', 'L', 'T']
  | .arg i => some (['A', 'R', 'G'] ++ [hexDigit i])
  | .reserved => none

/-- The digit of an access width. -/
def widthDigit (width : Nat) : Char := hexDigit width

/-- The host statement of an input (R66, R67): `W`, `R`, `BW.n`, `BR.n` or `WAIT`.  There is none for an access
the port refuses by its width, for a reserved slot, or for reset and power-on. -/
def statementText : Input → Option (List Char)
  | .regWrite width off v =>
    if regPortServes width off then
      (regAt off).text.map fun r => ['W', ' '] ++ r ++ [',', ' ', '0', 'x'] ++ hexDigits 16 v.toNat
    else none
  | .regRead width off =>
    if regPortServes width off then (regAt off).text.map fun r => ['R', ' '] ++ r else none
  | .bufWrite width addr v =>
    if width ∈ [1, 2, 4, 8] then
      some (['B', 'W', '.', widthDigit width, ' '] ++ hexAddr addr ++ [',', ' ', '0', 'x']
        ++ hexDigits (2 * width) v.toNat)
    else none
  | .bufRead width addr =>
    if width ∈ [1, 2, 4, 8] then some (['B', 'R', '.', widthDigit width, ' '] ++ hexAddr addr) else none
  | .wait => some ['W', 'A', 'I', 'T']
  | .reset _ => none
  | .powerOn _ _ => none

/-- The encoded form of an input, one transaction (R66).  WAIT is one or more reads of STATUS (R67). -/
def encodedForm : Input → Option (List Char)
  | .regWrite width off v =>
    if width = 8 then some (['R', 'E', 'G', '.', 'W', ' '] ++ hexAddr off ++ [' '] ++ hexDigits 16 v.toNat) else none
  | .regRead width off => if width = 8 then some (['R', 'E', 'G', '.', 'R', ' '] ++ hexAddr off) else none
  | .bufWrite width addr v =>
    if width ∈ [1, 2, 4, 8] then
      some (['B', 'U', 'F', '.', 'W', widthDigit width, ' '] ++ hexAddr addr ++ [' ']
        ++ hexDigits (2 * width) v.toNat)
    else none
  | .bufRead width addr =>
    if width ∈ [1, 2, 4, 8] then some (['B', 'U', 'F', '.', 'R', widthDigit width, ' '] ++ hexAddr addr) else none
  | .wait => some (['R', 'E', 'G', '.', 'R', ' '] ++ hexAddr 0x08)
  | .reset _ => none
  | .powerOn _ _ => none

end Sys2Proof.Machine
end

