-- ==== Sys2Proof/Safety.lean ====
section
/-! DEFINITION. The terms claims about CORE are stated in: the invariant of its states, what the host can see, and when a
host program's run has ended (R133). -/

namespace Sys2Proof.Machine

/-- What holds of every state of CORE. -/
structure State.Inv (s : State) : Prop where
  /-- `MEM_SIZE` is at least 16 (R11). -/
  size_lo : 16 ≤ s.memSize
  /-- `MEM_SIZE` is at most 2^64 (R11). -/
  size_hi : s.memSize ≤ 2 ^ 64
  /-- BUF is in canonical form. -/
  buf_wf : Memory.wf s.buf = true
  /-- BUF has no byte at or past `MEM_SIZE` (R33). -/
  buf_below : Memory.below s.memSize s.buf = true
  /-- BUSY = 1 and DONE = 1 never hold together (R23). -/
  busy_not_done : s.phase = .busy → s.done = false
  /-- ERR reads 0x00 unless a command has completed (R25, R26). -/
  err_ok_until_done : s.done = false → s.err = .ok
  /-- A race belongs to a busy command (R126). -/
  raced_busy : s.raced = true → s.phase = .busy
  /-- The engine is idle while reset is asserted (R121). -/
  held_idle : 0 < s.resetHold → s.phase = .idle

/-- The state without the latch and CTR, which the host cannot see (R31, R32, R35). -/
def State.visible (s : State) : State := { s with latch := ⟨0, 0, zeroArgs⟩, ctr := zeroCounter }

/-- Two states the host cannot tell apart, now or later: they agree on all it can see, and on the latch while it
is in use (R31, R32, R35). -/
def State.Alike (s t : State) : Prop := s.visible = t.visible ∧ (s.phase = .busy → s.latch = t.latch)

/-- The state after a completion with outcome `e` and no further effect: `l` and `n` are what the latch and the draw
counter then hold (R31, R93). -/
def State.completed (e : ErrCode) (l : Latch) (n : Nat) (s : State) : State :=
  { s with phase := .idle, done := true, err := e, latch := l, delay := 0, raced := false, draws := n }

/-- The state after a host transaction with no further effect: it has left the inputs, its answer stands in the
transcript, and a busy engine is one host step nearer to its completion. -/
def State.answered (inp : Input) (r : Reply) (rest : List Input) (s : State) : State :=
  { s with inputs := rest, transcript := (inp, r) :: s.transcript, delay := s.delay - 1 }

/-- Byte p of the stream that the seed value S and the offset give (R77). -/
def streamByte (seed offset p : Nat) : Byte := (bytesBE 16 ((seed + offset + p / 16) % 2 ^ 128)).getD (p % 16) 0

/-- The next input is a reset or a power-on, and the host is to move. -/
def State.resetNext (s : State) : Prop :=
  s.engineTurn = false ∧ ∃ inp rest, s.inputs = inp :: rest ∧ inp.isTransaction = false

/-- A read of STATUS that returned this reply showed BUSY = 0. -/
def replyShowsIdle : Reply → Bool
  | .value v => !v.getLsbD 0
  | .ack => false
  | .busError => false
  | .ignored => false

/-- In a transcript, newest first: a STATUS read has shown BUSY = 0 after the last command issue (R133).  An
issue that was dropped may stand for the accepted one before it, since no read can have shown BUSY = 0 between
the two (notes/assumptions/17.md).  With no command issue in the transcript it is true and asks for no read: R133 is
silent there (DESIGN CHOICE, notes/assumptions/22.md). -/
def shownIdle : List (Input × Reply) → Bool
  | [] => true
  | (.regRead _ off, r) :: rest => (decide (off = 0x08) && replyShowsIdle r) || shownIdle rest
  | (.wait, r) :: rest => replyShowsIdle r || shownIdle rest
  | (.regWrite _ off _, r) :: rest => !(decide (off = 0x00) && decide (r = .ack)) && shownIdle rest
  | (.bufWrite _ _ _, _) :: rest => shownIdle rest
  | (.bufRead _ _, _) :: rest => shownIdle rest
  | (.reset _, _) :: rest => shownIdle rest
  | (.powerOn _ _, _) :: rest => shownIdle rest

/-- The host program's run has ended (R133).  A reset or a power-on still to come counts as part of the run, so the
run ends after it: R133 names the last transaction only (DESIGN CHOICE, notes/assumptions/22.md). -/
def State.runEnded (s : State) : Bool := s.inputs.isEmpty && shownIdle s.transcript

/-- The end state of a run (R133). -/
structure EndState where
  status : Word
  result : Word
  args : Vector Word 6
  buf : Memory
  deriving DecidableEq, Repr

/-- The end state that a state shows (R133). -/
def State.endState (s : State) : EndState where
  status := s.status
  result := s.result
  args := s.args
  buf := s.buf

end Sys2Proof.Machine
end

