-- ==== Sys2Proof/Certificates/Slice0/Obligations.lean ====
section
/-! DEFINITION. The statements about CORE, each a rule of the spec or a property that follows from its rules. -/

open Sys2Proof Sys2Proof.Machine

/-! ### Encoding -/

/-- Words written out from the opcode map (R57) and the examples of R97 decode to what they stand for. -/
def Obligations.SpecWordsDecode : Prop :=
  decode 0x0000000000000000 = .nop ∧ decode 0x0000000000000001 = .cadd ∧ decode 0x0000000000000002 = .kgen ∧
  decode 0x0000000000000003 = .xapply ∧ decode 0x0000000000000004 = .nm16 ∧ decode 0x0000000000000005 = .hgen ∧
  decode 0x0000000000000006 = .illegal 0x06 ∧ decode 0x0000000000000100 = .illegal 0x100 ∧
  decode 0x8000000000000001 = .illegal 0x8000000000000001

/-- R58: RSV not 0 is illegal whatever OPC holds; otherwise OPC 0x00..0x05 is the command of R57; otherwise the word is
illegal. -/
def Obligations.EveryWordDecodesByTheOpcodeMap : Prop :=
  ∀ w : Word, decode w =
    if w.toNat / 256 ≠ 0 then .illegal w
    else if w.toNat % 256 = 0x00 then .nop
    else if w.toNat % 256 = 0x01 then .cadd
    else if w.toNat % 256 = 0x02 then .kgen
    else if w.toNat % 256 = 0x03 then .xapply
    else if w.toNat % 256 = 0x04 then .nm16
    else if w.toNat % 256 = 0x05 then .hgen
    else .illegal w

/-- Decoding the word of a well-formed instruction gives the instruction back. -/
def Obligations.DecodeOfEncode : Prop := ∀ i : Instr, i.wf = true → decode (encode i) = i

/-- Every word decodes to a well-formed instruction whose word it is: no two words stand for one instruction. -/
def Obligations.EncodeOfDecode : Prop := ∀ w : Word, (decode w).wf = true ∧ encode (decode w) = w

/-! ### The step, and the life of a command -/

/-- R93 (a): a completion step runs the command that the latched word decodes to.  WHEN it comes is the model's choice
(log entry 5, where R131 says only that it comes in finite time): as soon as no delay is left, or the host has no input
left. -/
def Obligations.StepCompletesTheLatchedCommand : Prop :=
  ∀ s : State, s.phase = .busy → (s.delay = 0 ∨ s.inputs = []) →
    step s = exec (decode (commandWord s.latch.rsv s.latch.opc)) s

/-- A word placed by `withFetchWord` is the one the next step runs, on the arguments of ARG0..ARG5 and on the BUF that
were there. -/
def Obligations.StepRunsTheFetchedWord : Prop :=
  ∀ (s : State) (w : Word),
    step (s.withFetchWord 64 w.toNat) = exec (decode w) (s.withFetchWord 64 w.toNat) ∧
    (s.withFetchWord 64 w.toNat).latch.x = s.args ∧ (s.withFetchWord 64 w.toNat).buf = s.buf ∧
    (s.withFetchWord 64 w.toNat).args = s.args ∧ (s.withFetchWord 64 w.toNat).result = s.result

/-- R92: a CMD write while BUSY = 0 is accepted, whatever the word. -/
def Obligations.IdleCmdWriteIsAccepted : Prop :=
  ∀ (s : State) (w : Word) (rest : List Input),
    s.inputs = .regWrite 8 0x00 w :: rest → s.phase = .idle → s.resetHold = 0 →
    ∃ d ds n, step s = .next
      { s.answered (.regWrite 8 0x00 w) .ack rest with
        latch := ⟨w.extractLsb' 0 8, w.extractLsb' 8 56, s.args⟩
        phase := .busy, done := false, err := .ok, raced := false, delay := d, delays := ds, draws := n }

/-- R94: a CMD write while BUSY = 1 is dropped. -/
def Obligations.BusyCmdWriteIsDropped : Prop :=
  ∀ (s : State) (w : Word) (rest : List Input),
    s.inputs = .regWrite 8 0x00 w :: rest → s.phase = .busy → s.delay ≠ 0 → s.resetHold = 0 →
    step s = .next { s.answered (.regWrite 8 0x00 w) .ack rest with dropped := true }

/-- While a command is busy its latch does not change: neither an ARG write (R127) nor a dropped issue (R94)
reaches it, and no second command starts (R95). -/
def Obligations.BusyEngineKeepsItsLatch : Prop :=
  ∀ s t : State, step s = .next t → s.phase = .busy → t.phase = .busy → t.latch = s.latch

/-- R25: DONE = 0 with BUSY = 0 comes about by reset only. -/
def Obligations.DoneOrBusyUntilReset : Prop :=
  ∀ s t : State, step s = .next t → ¬ s.resetNext → (s.done = true ∨ s.phase = .busy) →
    (t.done = true ∨ t.phase = .busy)

/-- A busy engine that no reset stops comes to its completion step, and then completes the command it had latched (R93,
R131).  The bound `delay` on the steps before it is the model's choice (log entry 5): R131 gives no bound. -/
def Obligations.BusyEngineReachesItsCompletion : Prop :=
  ∀ s : State, s.phase = .busy → (∀ inp ∈ s.inputs, inp.isTransaction = true) →
    ∃ n u t, n ≤ s.delay ∧ Host.Core.run core n s = .next u ∧ u.latch = s.latch ∧
      step u = exec (decode s.latch.word) u ∧ step u = .next t ∧ t.phase = .idle ∧ t.done = true

/-- WAIT reads STATUS, goes on while BUSY = 1 and ends with the first read that returns BUSY = 0 (R67). -/
def Obligations.WaitReadsStatusUntilIdle : Prop :=
  ∀ (s : State) (rest : List Input), s.inputs = .wait :: rest → s.engineTurn = false → s.resetHold = 0 →
    step s = .next (s.answered .wait (.value s.status) (if s.phase = .busy then .wait :: rest else rest))

/-- R49 (d), R133: while a command is busy no STATUS read since its issue has shown BUSY = 0.  Every step keeps
this. -/
def Obligations.ShownIdleMeansComplete : Prop :=
  ∀ s t : State, (s.phase = .busy → shownIdle s.transcript = false) → step s = .next t →
    (t.phase = .busy → shownIdle t.transcript = false)

/-! ### The host's ports -/

/-- R42: an access that is not 8 bytes at a multiple of 8 below 0x100 is refused with a bus error and has no effect; an
access to a reserved offset reads 0 and writes nothing. -/
def Obligations.RegisterPort : Prop :=
  ∀ (s : State) (rest : List Input) (width off : Nat) (v : Word), s.engineTurn = false → s.resetHold = 0 →
    (¬ (width = 8 ∧ off % 8 = 0 ∧ off < 0x100) →
      (s.inputs = .regRead width off :: rest →
        step s = .next (s.answered (.regRead width off) .busError rest)) ∧
      (s.inputs = .regWrite width off v :: rest →
        step s = .next (s.answered (.regWrite width off v) .busError rest))) ∧
    (width = 8 → off % 8 = 0 → (off = 0x18 ∨ (0x50 ≤ off ∧ off ≤ 0xF8)) →
      (s.inputs = .regRead width off :: rest →
        step s = .next (s.answered (.regRead width off) (.value 0) rest)) ∧
      (s.inputs = .regWrite width off v :: rest →
        step s = .next (s.answered (.regWrite width off v) .ack rest)))

/-- What a served register read returns (R19 to R23), and that it changes nothing (R98). -/
def Obligations.RegisterReads : Prop :=
  ∀ (s : State) (rest : List Input) (off : Nat) (v : Word), s.engineTurn = false → s.resetHold = 0 →
    s.inputs = .regRead 8 off :: rest →
    ((off = 0x00 ∧ v = 0) ∨ (off = 0x08 ∧ v = s.status) ∨ (off = 0x10 ∧ v = s.result) ∨
      ∃ i : Fin 6, off = 0x20 + 8 * i.val ∧ v = s.args[i]) →
    step s = .next (s.answered (.regRead 8 off) (.value v) rest)

/-- A host write to an ARG register changes that register and nothing else, the latch of a busy command included
(R20, R127); a host write to RESULT changes nothing (R21). -/
def Obligations.ArgAndResultWrites : Prop :=
  ∀ (s : State) (rest : List Input) (v : Word), s.engineTurn = false → s.resetHold = 0 →
    (∀ i : Fin 6, s.inputs = .regWrite 8 (0x20 + 8 * i.val) v :: rest →
      step s = .next { s.answered (.regWrite 8 (0x20 + 8 * i.val) v) .ack rest with args := s.args.set i v }) ∧
    (s.inputs = .regWrite 8 0x10 v :: rest → step s = .next (s.answered (.regWrite 8 0x10 v) .ack rest))

/-- R28: a host write to STATUS clears DROPPED where bit 2 is 1 and has no other effect. -/
def Obligations.StatusWriteClearsDropped : Prop :=
  ∀ (s : State) (rest : List Input) (v : Word), s.engineTurn = false → s.resetHold = 0 →
    s.inputs = .regWrite 8 0x08 v :: rest →
    step s = .next
      { s.answered (.regWrite 8 0x08 v) .ack rest with dropped := if v.getLsbD 2 then false else s.dropped }

/-- The bits of STATUS (R23), and that BUSY and DONE are never both 1. -/
def Obligations.StatusLayout : Prop :=
  ∀ s : State,
    s.status.getLsbD 0 = decide (s.phase = .busy) ∧ s.status.getLsbD 1 = s.done ∧ s.status.getLsbD 2 = s.dropped ∧
    (∀ j, 3 ≤ j → j ≤ 7 → s.status.getLsbD j = false) ∧
    s.status.extractLsb' 8 8 =
      (match s.err with
        | .ok => 0x00 | .invalidArgument => 0x01 | .outOfBounds => 0x02 | .notImplemented => 0x03
        | .illegalCommand => 0x04) ∧
    (∀ j, 16 ≤ j → s.status.getLsbD j = false) ∧
    (s.Inv → ¬ (s.status.getLsbD 0 = true ∧ s.status.getLsbD 1 = true))

/-- R14: the big-endian value is the weighted sum of the bytes. -/
def Obligations.BigEndianIsTheWeightedSum : Prop :=
  ∀ l : List Byte, be l = ∑ j : Fin l.length, (l[j]).toNat * 256 ^ (l.length - 1 - j.val)

/-- R40: what an aligned host access of 1, 2, 4 or 8 bytes inside BUF reads and writes, big-endian, where it does not
race with a busy command (R126).  R40 speaks of an n-byte value: that a wider `v` stores its low n bytes is the model's
choice (log entry 14). -/
def Obligations.BufPort : Prop :=
  ∀ (s : State) (rest : List Input) (n a : Nat) (v : Word), Memory.wf s.buf = true →
    s.engineTurn = false → s.resetHold = 0 →
    (n = 1 ∨ n = 2 ∨ n = 4 ∨ n = 8) → a % n = 0 → a + n ≤ s.memSize →
    (s.inputs = .bufRead n a :: rest → s.readRaces a n = false →
      step s = .next (s.answered (.bufRead n a) (.value (BitVec.ofNat 64 (be (readBytes s.buf a n)))) rest)) ∧
    (s.inputs = .bufWrite n a v :: rest → s.writeRaces a n = false →
      ∃ m, step s = .next { s.answered (.bufWrite n a v) .ack rest with buf := m } ∧
        readBytes m a n = bytesBE n v.toNat ∧
        ∀ b, (b < a ∨ a + n ≤ b) → readByte m b = readByte s.buf b)

/-- R41: any other host access to BUF is refused with a bus error and reads or writes no byte. -/
def Obligations.BufPortRefuses : Prop :=
  ∀ (s : State) (rest : List Input) (n a : Nat) (v : Word), s.engineTurn = false → s.resetHold = 0 →
    (¬ (n = 1 ∨ n = 2 ∨ n = 4 ∨ n = 8) ∨ a % n ≠ 0 ∨ s.memSize < a + n) →
    (s.inputs = .bufRead n a :: rest → step s = .next (s.answered (.bufRead n a) .busError rest)) ∧
    (s.inputs = .bufWrite n a v :: rest → step s = .next (s.answered (.bufWrite n a v) .busError rest))

/-- R126: a racing read changes nothing; a racing write stores the host's bytes and changes nothing else, and the command
then still ends with the outcome its checks give and touches no byte outside its write footprint, so that a byte of the
host's there keeps the value written.  The model's readings: all n bytes of a racing read are free (log entry 8), the
host's write takes effect at once (log entry 9), and a `v` wider than the access stores its low bytes (log entry 14). -/
def Obligations.RacesStayInTheWriteFootprint : Prop :=
  ∀ (s : State) (rest : List Input) (n a : Nat) (v : Word), Memory.wf s.buf = true →
    s.engineTurn = false → s.resetHold = 0 → s.phase = .busy →
    (n = 1 ∨ n = 2 ∨ n = 4 ∨ n = 8) → a % n = 0 → a + n ≤ s.memSize →
    (s.inputs = .bufRead n a :: rest → s.readRaces a n = true →
      ∃ r k, step s = .next { s.answered (.bufRead n a) (.value r) rest with draws := k }) ∧
    (s.inputs = .bufWrite n a v :: rest → s.writeRaces a n = true →
      ∃ m t, t = { s.answered (.bufWrite n a v) .ack rest with buf := m, raced := true } ∧ step s = .next t ∧
        readBytes m a n = bytesBE n v.toNat ∧ (∀ b, (b < a ∨ a + n ≤ b) → readByte m b = readByte s.buf b) ∧
        checkError s.memSize s.latch.x s.latched = none ∧
        ∃ l k c m', exec s.latched t = .next { t.completed .ok l k with buf := m', ctr := c } ∧
          (s.latched ≠ .kgen → c = s.ctr) ∧
          ∀ b, s.latchedWrites.contains b = false → readByte m' b = readByte m b)

/-! ### What every command does -/

/-- R93, R106: every command comes to an end, with BUSY 0, DONE 1, DROPPED as before and ERR the code of the first check
that fails, or 0x00. -/
def Obligations.EveryCommandCompletes : Prop :=
  ∀ (i : Instr) (s : State), ∃ t, exec i s = .next t ∧ t.phase = .idle ∧ t.done = true ∧ t.dropped = s.dropped ∧
    t.err = (match checkError s.memSize s.latch.x i with
      | none => .ok
      | some .invalidArgument => .invalidArgument
      | some .outOfBounds => .outOfBounds
      | some .notImplemented => .notImplemented
      | some .illegalCommand => .illegalCommand)

/-- R107: a command that completes with ERR not 0 leaves BUF and RESULT as they were. -/
def Obligations.FailedCommandChangesNothing : Prop :=
  ∀ (i : Instr) (s t : State), exec i s = .next t → t.err ≠ .ok → t.buf = s.buf ∧ t.result = s.result

/-- The registers no command writes: ARG0..ARG5 (R20), DROPPED (R27), RESULT but by NM16 (R21), CTR but by KGEN
(R32); and what is not the engine's at all. -/
def Obligations.CommandsKeepTheRegisters : Prop :=
  ∀ (i : Instr) (s t : State), exec i s = .next t →
    t.args = s.args ∧ t.dropped = s.dropped ∧ (i ≠ .nm16 → t.result = s.result) ∧ (i ≠ .kgen → t.ctr = s.ctr) ∧
    t.memSize = s.memSize ∧ t.inputs = s.inputs ∧ t.transcript = s.transcript ∧ t.delays = s.delays ∧
    t.resetHold = s.resetHold

/-- R45, R46: a command changes no BUF byte outside its write footprint, race or no race: 16 bytes for CADD, whole
blocks for KGEN, LENGTH bytes for XAPPLY, and nothing for the others or after an error. -/
def Obligations.CommandsWriteOnlyTheirFootprint : Prop :=
  ∀ (i : Instr) (s t : State), Memory.wf s.buf = true → exec i s = .next t →
    ∀ b, ¬ (t.err = .ok ∧
        match i with
        | .cadd => u64 s.latch.x[0] ≤ b ∧ b < u64 s.latch.x[0] + 16
        | .kgen => u64 s.latch.x[2] ≤ b ∧ (b : Int) < u64 s.latch.x[2] + nm16 (s64 s.latch.x[4])
        | .xapply => u64 s.latch.x[0] ≤ b ∧ (b : Int) < u64 s.latch.x[0] + s64 s.latch.x[4]
        | .nop | .nm16 | .hgen | .illegal _ => False) →
      readByte t.buf b = readByte s.buf b

/-- R45, R46: what a command does depends on the BUF bytes of its read footprint only.  This compares two executions
that draw the same free values (the latch, CTR, and after a race the bytes of the write footprint): that equal draw
counters draw equal values is the model's choice (log entry 16), and no rule of the spec. -/
def Obligations.CommandsReadOnlyTheirFootprint : Prop :=
  ∀ (i : Instr) (s : State) (m : Memory), Memory.wf s.buf = true → Memory.wf m = true →
    (∀ sp ∈ readSpans s.memSize s.latch.x i, ∀ b, sp.contains b = true → readByte m b = readByte s.buf b) →
    ∃ t m', exec i s = .next t ∧ exec i { s with buf := m } = .next { t with buf := m' } ∧
      ∀ b, (writeSpan s.memSize s.latch.x i).contains b = true → readByte m' b = readByte t.buf b

/-- R21: only the successful completion of NM16, or reset, changes RESULT. -/
def Obligations.OnlyNm16OrResetWritesResult : Prop :=
  ∀ s t : State, step s = .next t → t.result ≠ s.result →
    (s.engineTurn = true ∧ s.latched = .nm16 ∧ t.err = .ok) ∨ s.resetNext

/-! ### NOP, HGEN and illegal commands -/

/-- R96: the command word 0 is NOP, and NOP completes with outcome OK and writes only the STATUS fields. -/
def Obligations.NopHasNoEffect : Prop :=
  decode 0x0000000000000000 = .nop ∧ ∀ s : State, ∃ l n, exec .nop s = .next (s.completed .ok l n)

/-- R85: the command word 5 is HGEN, and HGEN always completes with NOT_IMPLEMENTED and writes nothing. -/
def Obligations.HgenIsNotImplemented : Prop :=
  decode 0x0000000000000005 = .hgen ∧ ∀ s : State, ∃ l n, exec .hgen s = .next (s.completed .notImplemented l n)

/-- R97: every word that names no command completes with ILLEGAL_COMMAND and writes nothing. -/
def Obligations.ReservedWordsAreIllegal : Prop :=
  ∀ (w : Word) (s : State), (w.extractLsb' 8 56 ≠ 0 ∨ 0x06 ≤ (w.extractLsb' 0 8).toNat) →
    ∃ l n, exec (decode w) s = .next (s.completed .illegalCommand l n)

/-- The completion step of an illegal command, in every state and for whatever word it carries (R97). -/
def Obligations.IllegalCommandCompletes : Prop :=
  ∀ (w : Word) (s : State), ∃ l n, exec (.illegal w) s = .next (s.completed .illegalCommand l n)

/-! ### NM16 -/

/-- R84: the four properties of the rounded value, and that the first three of them fix it and its formula. -/
def Obligations.RoundingToSixteen : Prop :=
  ∀ n : Int, n ≤ nm16 n ∧ nm16 n % 16 = 0 ∧ nm16 n - n < 16 ∧ (n % 16 = 0 → nm16 n = n) ∧
    ∀ r : Int, n ≤ r → r % 16 = 0 → r - n < 16 → r = nm16 n ∧ r = n + (16 - n % 16) % 16

/-- R83: the command word 4 is NM16.  NM16 writes the rounded value to RESULT, or completes with INVALID_ARGUMENT and
keeps RESULT where the value is no int64. -/
def Obligations.Nm16RoundsUp : Prop :=
  decode 0x0000000000000004 = .nm16 ∧ ∀ s : State,
    (s64 s.latch.x[0] ≤ 2 ^ 63 - 16 →
      ∃ l n, exec .nm16 s =
        .next { s.completed .ok l n with result := BitVec.ofInt 64 (nm16 (s64 s.latch.x[0])) }) ∧
    (2 ^ 63 - 16 < s64 s.latch.x[0] → ∃ l n, exec .nm16 s = .next (s.completed .invalidArgument l n))

/-! ### The counter and CADD -/

/-- R71: the byte-serial add of R69 and R70 is addition modulo 2^128. -/
def Obligations.CounterAddIsAdditionModulo : Prop :=
  (∀ (v : Counter) (p : Fin 16) (b : Byte),
    be (addByteAt v p b).toList = (be v.toList + b.toNat * 256 ^ (15 - p.val)) % 2 ^ 128) ∧
  (∀ (v : Counter) (d : Word), be (counterAdd v d).toList = (be v.toList + d.toNat) % 2 ^ 128)

/-- R76: adding 1 is one byte step at index 15. -/
def Obligations.IncrementIsOneByteStep : Prop := ∀ v : Counter, counterAdd v 1 = addByteAt v 15 1

/-- R74: identity, composition, and wraparound of the counter add. -/
def Obligations.CounterAddLaws : Prop :=
  (∀ v : Counter, counterAdd v 0 = v) ∧
  (∀ (v : Counter) (d e : Word), d.toNat + e.toNat < 2 ^ 64 →
    counterAdd (counterAdd v d) e = counterAdd v (d + e)) ∧
  (∀ v : Counter, (∀ j : Fin 16, v[j] = 0xFF) → ∀ j : Fin 16, (counterAdd v 1)[j] = 0)

/-- R72: the command word 1 is CADD.  CADD adds DELTA to the 16-byte big-endian number at CTR_ADDR, or completes with
OUT_OF_BOUNDS and changes nothing. -/
def Obligations.CaddAddsInPlace : Prop :=
  decode 0x0000000000000001 = .cadd ∧ ∀ s : State, Memory.wf s.buf = true → s.raced = false →
    (u64 s.latch.x[0] + 16 ≤ s.memSize →
      ∃ l n m, exec .cadd s = .next { s.completed .ok l n with buf := m } ∧
        be (readBytes m (u64 s.latch.x[0]) 16) =
          (be (readBytes s.buf (u64 s.latch.x[0]) 16) + u64 s.latch.x[1]) % 2 ^ 128 ∧
        ∀ b, (b < u64 s.latch.x[0] ∨ u64 s.latch.x[0] + 16 ≤ b) → readByte m b = readByte s.buf b) ∧
    (s.memSize < u64 s.latch.x[0] + 16 → ∃ l n, exec .cadd s = .next (s.completed .outOfBounds l n))

/-! ### KGEN -/

/-- R77, R78, R81: where its checks K1 to K6 pass, KGEN writes whole blocks, block k the number seed + offset + k modulo
2^128 with the seed's value from before the command, and no other byte. -/
def Obligations.KgenWritesTheKeystream : Prop :=
  ∀ s : State, Memory.wf s.buf = true → s.raced = false →
    u64 s.latch.x[1] = 16 → 0 ≤ s64 s.latch.x[4] → 0 ≤ s64 s.latch.x[5] →
    u64 s.latch.x[0] + 16 ≤ s.memSize → u64 s.latch.x[2] + u64 s.latch.x[3] ≤ s.memSize →
    nm16 (s64 s.latch.x[4]) ≤ u64 s.latch.x[3] →
    ∃ l n m k, exec .kgen s = .next { s.completed .ok l n with buf := m, ctr := k } ∧
      (∀ j : Nat, 16 * (j : Int) < nm16 (s64 s.latch.x[4]) →
        readBytes m (u64 s.latch.x[2] + 16 * j) 16 =
          bytesBE 16 ((be (readBytes s.buf (u64 s.latch.x[0]) 16) + (s64 s.latch.x[5]).toNat + j) % 2 ^ 128)) ∧
      ∀ b : Nat, (b < u64 s.latch.x[2] ∨ u64 s.latch.x[2] + nm16 (s64 s.latch.x[4]) ≤ (b : Int)) →
        readByte m b = readByte s.buf b

/-- R75, R108: the first check of KGEN that fails decides the error, and nothing else happens. -/
def Obligations.KgenChecksInOrder : Prop :=
  ∀ s : State,
    ∃ t, exec .kgen s = .next t ∧
      t.err =
        (if u64 s.latch.x[1] ≠ 16 then .invalidArgument
        else if s64 s.latch.x[4] < 0 then .invalidArgument
        else if s64 s.latch.x[5] < 0 then .invalidArgument
        else if s.memSize < u64 s.latch.x[0] + 16 then .outOfBounds
        else if s.memSize < u64 s.latch.x[2] + u64 s.latch.x[3] then .outOfBounds
        else if (u64 s.latch.x[3] : Int) < nm16 (s64 s.latch.x[4]) then .outOfBounds
        else .ok) ∧
      (t.err ≠ .ok → ∃ l n k, t = { s.completed t.err l n with ctr := k })

/-- R82: KGEN with SIZE 0 writes no byte. -/
def Obligations.KgenOfSizeZero : Prop :=
  ∀ s : State, u64 s.latch.x[1] = 16 → s64 s.latch.x[4] = 0 → 0 ≤ s64 s.latch.x[5] →
    u64 s.latch.x[0] + 16 ≤ s.memSize → u64 s.latch.x[2] + u64 s.latch.x[3] ≤ s.memSize →
    ∃ l n k, exec .kgen s = .next { s.completed .ok l n with ctr := k }

/-! ### XAPPLY -/

/-- R87: where its checks X1 to X7 pass, lane j of XAPPLY combines source byte j with key byte j + KEY_OFFSET, and no
other byte changes. -/
def Obligations.XapplyCombinesLanes : Prop :=
  ∀ s : State, Memory.wf s.buf = true → s.raced = false →
    0 ≤ s64 s.latch.x[4] → 0 ≤ s64 s.latch.x[5] →
    u64 s.latch.x[0] + u64 s.latch.x[1] ≤ s.memSize → u64 s.latch.x[2] + u64 s.latch.x[3] ≤ s.memSize →
    s64 s.latch.x[4] ≤ u64 s.latch.x[1] → s64 s.latch.x[5] + s64 s.latch.x[4] ≤ u64 s.latch.x[3] →
    (0 < s64 s.latch.x[4] →
      u64 s.latch.x[2] + s64 s.latch.x[5] + s64 s.latch.x[4] ≤ u64 s.latch.x[0] ∨
      u64 s.latch.x[0] + s64 s.latch.x[4] ≤ u64 s.latch.x[2] + s64 s.latch.x[5]) →
    ∃ l n m, exec .xapply s = .next { s.completed .ok l n with buf := m } ∧
      (∀ j : Nat, (j : Int) < s64 s.latch.x[4] →
        readByte m (u64 s.latch.x[0] + j) =
          readByte s.buf (u64 s.latch.x[0] + j) ^^^
            readByte s.buf (u64 s.latch.x[2] + (j + (s64 s.latch.x[5]).toNat))) ∧
      ∀ b : Nat, (b < u64 s.latch.x[0] ∨ u64 s.latch.x[0] + s64 s.latch.x[4] ≤ (b : Int)) →
        readByte m b = readByte s.buf b

/-- R86, R88, R108: the first check of XAPPLY that fails decides the error, and nothing else happens. -/
def Obligations.XapplyChecksInOrder : Prop :=
  ∀ s : State,
    ∃ t, exec .xapply s = .next t ∧
      t.err =
        (if s64 s.latch.x[4] < 0 then .invalidArgument
        else if s64 s.latch.x[5] < 0 then .invalidArgument
        else if s.memSize < u64 s.latch.x[0] + u64 s.latch.x[1] then .outOfBounds
        else if s.memSize < u64 s.latch.x[2] + u64 s.latch.x[3] then .outOfBounds
        else if (u64 s.latch.x[1] : Int) < s64 s.latch.x[4] then .outOfBounds
        else if (u64 s.latch.x[3] : Int) < s64 s.latch.x[5] + s64 s.latch.x[4] then .outOfBounds
        else if 0 < s64 s.latch.x[4] ∧
            (u64 s.latch.x[0] : Int) < u64 s.latch.x[2] + s64 s.latch.x[5] + s64 s.latch.x[4] ∧
            (u64 s.latch.x[2] : Int) + s64 s.latch.x[5] < u64 s.latch.x[0] + s64 s.latch.x[4] then
          .invalidArgument
        else .ok) ∧
      (t.err ≠ .ok → ∃ l n, t = s.completed t.err l n)

/-- R90: XAPPLY twice with the same arguments restores BUF, accepted or not; an all-zero used key, or a failure, leaves
BUF unchanged the first time. -/
def Obligations.XapplyTwiceRestores : Prop :=
  ∀ s : State, Memory.wf s.buf = true → s.raced = false →
    ∃ t u, exec .xapply s = .next t ∧ exec .xapply { t with latch := s.latch } = .next u ∧
      u.err = t.err ∧ u.buf = s.buf ∧ (t.err ≠ .ok → t.buf = s.buf) ∧
      ((∀ j : Nat, (j : Int) < s64 s.latch.x[4] →
          readByte s.buf (u64 s.latch.x[2] + (s64 s.latch.x[5]).toNat + j) = 0) → t.buf = s.buf)

/-- R91: a KGEN followed by an XAPPLY whose key descriptor is KGEN's output, or any slice of it, combines the source with
the keystream: lane j uses the stream byte at the slice's distance from OUT_ADDR plus KEY_OFFSET + j.  With the whole
output as the key, KEY_OFFSET + LENGTH at most nm16(SIZE) meets check X6. -/
def Obligations.KeystreamFeedsXapply : Prop :=
  ∀ (s : State) (x : Vector Word 6), Memory.wf s.buf = true → s.raced = false →
    kgenError s.memSize (kgenArgs s.latch.x) = none →
    u64 s.latch.x[2] ≤ u64 x[2] → (u64 x[2] + u64 x[3] : Int) ≤ u64 s.latch.x[2] + nm16 (s64 s.latch.x[4]) →
    0 ≤ s64 x[4] → 0 ≤ s64 x[5] → u64 x[0] + u64 x[1] ≤ s.memSize → s64 x[4] ≤ u64 x[1] →
    s64 x[5] + s64 x[4] ≤ u64 x[3] → xapplyOverlap (xapplyArgs x) = false →
    ∃ t u, exec .kgen s = .next t ∧ exec .xapply { t with latch := { t.latch with x := x } } = .next u ∧
      t.err = .ok ∧ u.err = .ok ∧
      ∀ j : Nat, (j : Int) < s64 x[4] →
        readByte u.buf (u64 x[0] + j) = readByte t.buf (u64 x[0] + j) ^^^
          streamByte (be (readBytes s.buf (u64 s.latch.x[0]) 16)) (s64 s.latch.x[5]).toNat
            (u64 x[2] - u64 s.latch.x[2] + (s64 x[5]).toNat + j)

/-! ### Reset -/

/-- What the machine holds after power-on with any admissible parameters (R36): the latch and CTR hold values that the
model chose (log entry 3), so nothing is said of them. -/
def Obligations.PowerOnRegisters : Prop :=
  ∀ (n : Nat) (m : Memory),
    (∀ i : Fin 6, (State.powerOn n m).args[i] = 0) ∧ (State.powerOn n m).result = 0 ∧ (State.powerOn n m).status = 0 ∧
    (State.powerOn n m).phase = .idle ∧ (State.powerOn n m).buf = m ∧ (State.powerOn n m).memSize = n

/-- R121, R122, R123: a reset event clears every register, makes the engine idle, and leaves every BUF byte but those of
an aborted command's write footprint. -/
def Obligations.ResetEvent : Prop :=
  ∀ (s : State) (hold : Nat) (rest : List Input), Memory.wf s.buf = true →
    s.inputs = .reset hold :: rest → s.engineTurn = false →
    ∃ t, step s = .next t ∧ (∀ i : Fin 6, t.args[i] = 0) ∧ t.result = 0 ∧ t.status = 0 ∧ t.phase = .idle ∧
      t.memSize = s.memSize ∧ t.inputs = rest ∧ t.resetHold = hold ∧
      (s.phase = .idle → t.buf = s.buf) ∧
      (s.phase = .busy → ∀ b, s.latchedWrites.contains b = false → readByte t.buf b = readByte s.buf b)

/-- R121, R123: power-on is a reset with new contents of BUF.  How an input gives these contents (a list of bytes, the
first entry of an address, 0 where there is none) is the model's choice (log entry 12). -/
def Obligations.PowerOnEvent : Prop :=
  ∀ (s : State) (contents : List Host.Cell) (hold : Nat) (rest : List Input),
    s.inputs = .powerOn contents hold :: rest → s.engineTurn = false →
    ∃ t, step s = .next t ∧ (∀ i : Fin 6, t.args[i] = 0) ∧ t.result = 0 ∧ t.status = 0 ∧ t.phase = .idle ∧
      t.memSize = s.memSize ∧ t.resetHold = hold ∧
      ∀ a, readByte t.buf a =
        if a < s.memSize then ((contents.find? fun c => decide (c.1 = a)).map Prod.snd).getD 0 else 0

/-- R121: a host transaction that arrives while reset is asserted is ignored. -/
def Obligations.TransactionsIgnoredInReset : Prop :=
  ∀ (s : State) (inp : Input) (rest : List Input), s.inputs = inp :: rest → inp.isTransaction = true →
    s.engineTurn = false → 0 < s.resetHold →
    step s = .next { s.answered inp .ignored (if inp = .wait then inp :: rest else rest) with
      resetHold := s.resetHold - 1 }

/-! ### The whole machine -/

/-- The machine right after reset meets the invariant, whatever its `MEM_SIZE`. -/
def Obligations.ResetMeetsInvariant : Prop := State.reset.Inv

/-- Every step keeps the invariant: BUF canonical and within `MEM_SIZE` (R33), BUSY and DONE never both 1 (R23), ERR 0x00
until a command completes (R25, R26), a race only while busy, and an idle engine while reset is asserted. -/
def Obligations.StepKeepsInvariant : Prop := ∀ s t : State, s.Inv → step s = .next t → t.Inv

/-- Every step answers a next state: no command hangs the engine (R132), CORE raises no trap (R101), and a refused host
access changes nothing (R109). -/
def Obligations.EveryStepGoesOn : Prop := ∀ s : State, ∃ t, step s = .next t

/-- R31, R32, R35: nothing the host can see, now or later, depends on CTR, or on the latch outside the `busy`
phase. -/
def Obligations.HiddenStateIsNeverSeen : Prop :=
  ∀ s t : State, s.Alike t → ∃ s' t', step s = .next s' ∧ step t = .next t' ∧ s'.Alike t'

/-- R68: the expansion of each pseudo-instruction. -/
def Obligations.PseudoExpansions : Prop :=
  expandPseudo .nop = [.regWrite 8 0x00 0x00, .wait] ∧
  (∀ a d, expandPseudo (.cadd a d) =
    [.regWrite 8 0x20 a, .regWrite 8 0x28 d, .regWrite 8 0x00 0x01, .wait]) ∧
  (∀ a b c d e f, expandPseudo (.kgen a b c d e f) =
    [.regWrite 8 0x20 a, .regWrite 8 0x28 b, .regWrite 8 0x30 c, .regWrite 8 0x38 d, .regWrite 8 0x40 e,
      .regWrite 8 0x48 f, .regWrite 8 0x00 0x02, .wait]) ∧
  (∀ a b c d e f, expandPseudo (.xapply a b c d e f) =
    [.regWrite 8 0x20 a, .regWrite 8 0x28 b, .regWrite 8 0x30 c, .regWrite 8 0x38 d, .regWrite 8 0x40 e,
      .regWrite 8 0x48 f, .regWrite 8 0x00 0x03, .wait]) ∧
  (∀ n, expandPseudo (.nm16 n) = [.regWrite 8 0x20 n, .regWrite 8 0x00 0x04, .wait]) ∧
  expandPseudo .hgen = [.regWrite 8 0x00 0x05, .wait] ∧
  (∀ (a : Nat) (bs : List Byte) (j : Nat) (h : j < bs.length),
    (expandPseudo (.bws a bs)).length = bs.length ∧
    (expandPseudo (.bws a bs))[j]? = some (.bufWrite 1 (a + j) (bs[j].setWidth 64))) ∧
  (∀ a n j : Nat, j < n →
    (expandPseudo (.brs a n)).length = n ∧ (expandPseudo (.brs a n))[j]? = some (.bufRead 1 (a + j)))
end

