-- ==== Sys2Proof/Laws/State.lean ====
section
/-! SUPPORT. One lemma per field and named update of the state, so that no later proof unfolds an update. -/

namespace Sys2Proof.Machine

section flagsAccepted

variable (s : State)

@[simp] theorem State.flagsAccepted_memSize : (State.flagsAccepted s).memSize = s.memSize := rfl
@[simp] theorem State.flagsAccepted_args : (State.flagsAccepted s).args = s.args := rfl
@[simp] theorem State.flagsAccepted_result : (State.flagsAccepted s).result = s.result := rfl
@[simp] theorem State.flagsAccepted_phase : (State.flagsAccepted s).phase = .busy := rfl
@[simp] theorem State.flagsAccepted_done : (State.flagsAccepted s).done = false := rfl
@[simp] theorem State.flagsAccepted_dropped : (State.flagsAccepted s).dropped = s.dropped := rfl
@[simp] theorem State.flagsAccepted_err : (State.flagsAccepted s).err = .ok := rfl
@[simp] theorem State.flagsAccepted_latch : (State.flagsAccepted s).latch = s.latch := rfl
@[simp] theorem State.flagsAccepted_ctr : (State.flagsAccepted s).ctr = s.ctr := rfl
@[simp] theorem State.flagsAccepted_buf : (State.flagsAccepted s).buf = s.buf := rfl
@[simp] theorem State.flagsAccepted_inputs : (State.flagsAccepted s).inputs = s.inputs := rfl
@[simp] theorem State.flagsAccepted_transcript : (State.flagsAccepted s).transcript = s.transcript := rfl
@[simp] theorem State.flagsAccepted_delay : (State.flagsAccepted s).delay = s.delay := rfl
@[simp] theorem State.flagsAccepted_delays : (State.flagsAccepted s).delays = s.delays := rfl
@[simp] theorem State.flagsAccepted_raced : (State.flagsAccepted s).raced = s.raced := rfl
@[simp] theorem State.flagsAccepted_resetHold : (State.flagsAccepted s).resetHold = s.resetHold := rfl
@[simp] theorem State.flagsAccepted_draws : (State.flagsAccepted s).draws = s.draws := rfl

end flagsAccepted

section flagsCompleted

variable (e : ErrCode) (s : State)

@[simp] theorem State.flagsCompleted_memSize : (State.flagsCompleted e s).memSize = s.memSize := rfl
@[simp] theorem State.flagsCompleted_args : (State.flagsCompleted e s).args = s.args := rfl
@[simp] theorem State.flagsCompleted_result : (State.flagsCompleted e s).result = s.result := rfl
@[simp] theorem State.flagsCompleted_phase : (State.flagsCompleted e s).phase = .idle := rfl
@[simp] theorem State.flagsCompleted_done : (State.flagsCompleted e s).done = true := rfl
@[simp] theorem State.flagsCompleted_dropped : (State.flagsCompleted e s).dropped = s.dropped := rfl
@[simp] theorem State.flagsCompleted_err : (State.flagsCompleted e s).err = e := rfl
@[simp] theorem State.flagsCompleted_latch : (State.flagsCompleted e s).latch = s.latch := rfl
@[simp] theorem State.flagsCompleted_ctr : (State.flagsCompleted e s).ctr = s.ctr := rfl
@[simp] theorem State.flagsCompleted_buf : (State.flagsCompleted e s).buf = s.buf := rfl
@[simp] theorem State.flagsCompleted_inputs : (State.flagsCompleted e s).inputs = s.inputs := rfl
@[simp] theorem State.flagsCompleted_transcript : (State.flagsCompleted e s).transcript = s.transcript := rfl
@[simp] theorem State.flagsCompleted_delay : (State.flagsCompleted e s).delay = s.delay := rfl
@[simp] theorem State.flagsCompleted_delays : (State.flagsCompleted e s).delays = s.delays := rfl
@[simp] theorem State.flagsCompleted_raced : (State.flagsCompleted e s).raced = s.raced := rfl
@[simp] theorem State.flagsCompleted_resetHold : (State.flagsCompleted e s).resetHold = s.resetHold := rfl
@[simp] theorem State.flagsCompleted_draws : (State.flagsCompleted e s).draws = s.draws := rfl

end flagsCompleted

section flagsDropped

variable (s : State)

@[simp] theorem State.flagsDropped_memSize : (State.flagsDropped s).memSize = s.memSize := rfl
@[simp] theorem State.flagsDropped_args : (State.flagsDropped s).args = s.args := rfl
@[simp] theorem State.flagsDropped_result : (State.flagsDropped s).result = s.result := rfl
@[simp] theorem State.flagsDropped_phase : (State.flagsDropped s).phase = s.phase := rfl
@[simp] theorem State.flagsDropped_done : (State.flagsDropped s).done = s.done := rfl
@[simp] theorem State.flagsDropped_dropped : (State.flagsDropped s).dropped = true := rfl
@[simp] theorem State.flagsDropped_err : (State.flagsDropped s).err = s.err := rfl
@[simp] theorem State.flagsDropped_latch : (State.flagsDropped s).latch = s.latch := rfl
@[simp] theorem State.flagsDropped_ctr : (State.flagsDropped s).ctr = s.ctr := rfl
@[simp] theorem State.flagsDropped_buf : (State.flagsDropped s).buf = s.buf := rfl
@[simp] theorem State.flagsDropped_inputs : (State.flagsDropped s).inputs = s.inputs := rfl
@[simp] theorem State.flagsDropped_transcript : (State.flagsDropped s).transcript = s.transcript := rfl
@[simp] theorem State.flagsDropped_delay : (State.flagsDropped s).delay = s.delay := rfl
@[simp] theorem State.flagsDropped_delays : (State.flagsDropped s).delays = s.delays := rfl
@[simp] theorem State.flagsDropped_raced : (State.flagsDropped s).raced = s.raced := rfl
@[simp] theorem State.flagsDropped_resetHold : (State.flagsDropped s).resetHold = s.resetHold := rfl
@[simp] theorem State.flagsDropped_draws : (State.flagsDropped s).draws = s.draws := rfl

end flagsDropped

section writeStatus

variable (v : Word) (s : State)

@[simp] theorem State.writeStatus_memSize : (State.writeStatus v s).memSize = s.memSize := rfl
@[simp] theorem State.writeStatus_args : (State.writeStatus v s).args = s.args := rfl
@[simp] theorem State.writeStatus_result : (State.writeStatus v s).result = s.result := rfl
@[simp] theorem State.writeStatus_phase : (State.writeStatus v s).phase = s.phase := rfl
@[simp] theorem State.writeStatus_done : (State.writeStatus v s).done = s.done := rfl
@[simp] theorem State.writeStatus_dropped : (State.writeStatus v s).dropped = (s.dropped && !v.getLsbD 2) := rfl
@[simp] theorem State.writeStatus_err : (State.writeStatus v s).err = s.err := rfl
@[simp] theorem State.writeStatus_latch : (State.writeStatus v s).latch = s.latch := rfl
@[simp] theorem State.writeStatus_ctr : (State.writeStatus v s).ctr = s.ctr := rfl
@[simp] theorem State.writeStatus_buf : (State.writeStatus v s).buf = s.buf := rfl
@[simp] theorem State.writeStatus_inputs : (State.writeStatus v s).inputs = s.inputs := rfl
@[simp] theorem State.writeStatus_transcript : (State.writeStatus v s).transcript = s.transcript := rfl
@[simp] theorem State.writeStatus_delay : (State.writeStatus v s).delay = s.delay := rfl
@[simp] theorem State.writeStatus_delays : (State.writeStatus v s).delays = s.delays := rfl
@[simp] theorem State.writeStatus_raced : (State.writeStatus v s).raced = s.raced := rfl
@[simp] theorem State.writeStatus_resetHold : (State.writeStatus v s).resetHold = s.resetHold := rfl
@[simp] theorem State.writeStatus_draws : (State.writeStatus v s).draws = s.draws := rfl

end writeStatus

section flagsReset

variable (s : State)

@[simp] theorem State.flagsReset_memSize : (State.flagsReset s).memSize = s.memSize := rfl
@[simp] theorem State.flagsReset_args : (State.flagsReset s).args = s.args := rfl
@[simp] theorem State.flagsReset_result : (State.flagsReset s).result = s.result := rfl
@[simp] theorem State.flagsReset_phase : (State.flagsReset s).phase = .idle := rfl
@[simp] theorem State.flagsReset_done : (State.flagsReset s).done = false := rfl
@[simp] theorem State.flagsReset_dropped : (State.flagsReset s).dropped = false := rfl
@[simp] theorem State.flagsReset_err : (State.flagsReset s).err = .ok := rfl
@[simp] theorem State.flagsReset_latch : (State.flagsReset s).latch = s.latch := rfl
@[simp] theorem State.flagsReset_ctr : (State.flagsReset s).ctr = s.ctr := rfl
@[simp] theorem State.flagsReset_buf : (State.flagsReset s).buf = s.buf := rfl
@[simp] theorem State.flagsReset_inputs : (State.flagsReset s).inputs = s.inputs := rfl
@[simp] theorem State.flagsReset_transcript : (State.flagsReset s).transcript = s.transcript := rfl
@[simp] theorem State.flagsReset_delay : (State.flagsReset s).delay = s.delay := rfl
@[simp] theorem State.flagsReset_delays : (State.flagsReset s).delays = s.delays := rfl
@[simp] theorem State.flagsReset_raced : (State.flagsReset s).raced = s.raced := rfl
@[simp] theorem State.flagsReset_resetHold : (State.flagsReset s).resetHold = s.resetHold := rfl
@[simp] theorem State.flagsReset_draws : (State.flagsReset s).draws = s.draws := rfl

end flagsReset

section latchCommand

variable (w : Word) (s : State)

@[simp] theorem State.latchCommand_memSize : (State.latchCommand w s).memSize = s.memSize := rfl
@[simp] theorem State.latchCommand_args : (State.latchCommand w s).args = s.args := rfl
@[simp] theorem State.latchCommand_result : (State.latchCommand w s).result = s.result := rfl
@[simp] theorem State.latchCommand_phase : (State.latchCommand w s).phase = .busy := rfl
@[simp] theorem State.latchCommand_done : (State.latchCommand w s).done = false := rfl
@[simp] theorem State.latchCommand_dropped : (State.latchCommand w s).dropped = s.dropped := rfl
@[simp] theorem State.latchCommand_err : (State.latchCommand w s).err = .ok := rfl
@[simp] theorem State.latchCommand_latch : (State.latchCommand w s).latch = ⟨opcOf w, rsvOf w, s.args⟩ := rfl
@[simp] theorem State.latchCommand_ctr : (State.latchCommand w s).ctr = s.ctr := rfl
@[simp] theorem State.latchCommand_buf : (State.latchCommand w s).buf = s.buf := rfl
@[simp] theorem State.latchCommand_inputs : (State.latchCommand w s).inputs = s.inputs := rfl
@[simp] theorem State.latchCommand_transcript : (State.latchCommand w s).transcript = s.transcript := rfl
@[simp] theorem State.latchCommand_delay : (State.latchCommand w s).delay = s.delay := rfl
@[simp] theorem State.latchCommand_delays : (State.latchCommand w s).delays = s.delays := rfl
@[simp] theorem State.latchCommand_raced : (State.latchCommand w s).raced = false := rfl
@[simp] theorem State.latchCommand_resetHold : (State.latchCommand w s).resetHold = s.resetHold := rfl
@[simp] theorem State.latchCommand_draws : (State.latchCommand w s).draws = s.draws := rfl

end latchCommand

section forgetCtr

variable (s : State)

@[simp] theorem State.forgetCtr_memSize : (State.forgetCtr s).memSize = s.memSize := by simp only [State.forgetCtr]
@[simp] theorem State.forgetCtr_args : (State.forgetCtr s).args = s.args := by simp only [State.forgetCtr]
@[simp] theorem State.forgetCtr_result : (State.forgetCtr s).result = s.result := by simp only [State.forgetCtr]
@[simp] theorem State.forgetCtr_phase : (State.forgetCtr s).phase = s.phase := by simp only [State.forgetCtr]
@[simp] theorem State.forgetCtr_done : (State.forgetCtr s).done = s.done := by simp only [State.forgetCtr]
@[simp] theorem State.forgetCtr_dropped : (State.forgetCtr s).dropped = s.dropped := by simp only [State.forgetCtr]
@[simp] theorem State.forgetCtr_err : (State.forgetCtr s).err = s.err := by simp only [State.forgetCtr]
@[simp] theorem State.forgetCtr_latch : (State.forgetCtr s).latch = s.latch := by simp only [State.forgetCtr]
@[simp] theorem State.forgetCtr_ctr : (State.forgetCtr s).ctr = idleCtr s.draws := by simp only [State.forgetCtr]
@[simp] theorem State.forgetCtr_buf : (State.forgetCtr s).buf = s.buf := by simp only [State.forgetCtr]
@[simp] theorem State.forgetCtr_inputs : (State.forgetCtr s).inputs = s.inputs := by simp only [State.forgetCtr]
@[simp] theorem State.forgetCtr_transcript : (State.forgetCtr s).transcript = s.transcript := by simp only [State.forgetCtr]
@[simp] theorem State.forgetCtr_delay : (State.forgetCtr s).delay = s.delay := by simp only [State.forgetCtr]
@[simp] theorem State.forgetCtr_delays : (State.forgetCtr s).delays = s.delays := by simp only [State.forgetCtr]
@[simp] theorem State.forgetCtr_raced : (State.forgetCtr s).raced = s.raced := by simp only [State.forgetCtr]
@[simp] theorem State.forgetCtr_resetHold : (State.forgetCtr s).resetHold = s.resetHold := by simp only [State.forgetCtr]
@[simp] theorem State.forgetCtr_draws : (State.forgetCtr s).draws = s.draws + 1 := by simp only [State.forgetCtr]

end forgetCtr

section endCommand

variable (e : ErrCode) (s : State)

@[simp] theorem State.endCommand_memSize : (State.endCommand e s).memSize = s.memSize := rfl
@[simp] theorem State.endCommand_args : (State.endCommand e s).args = s.args := rfl
@[simp] theorem State.endCommand_result : (State.endCommand e s).result = s.result := rfl
@[simp] theorem State.endCommand_phase : (State.endCommand e s).phase = .idle := rfl
@[simp] theorem State.endCommand_done : (State.endCommand e s).done = true := rfl
@[simp] theorem State.endCommand_dropped : (State.endCommand e s).dropped = s.dropped := rfl
@[simp] theorem State.endCommand_err : (State.endCommand e s).err = e := rfl
@[simp] theorem State.endCommand_latch : (State.endCommand e s).latch = idleLatch s.draws := rfl
@[simp] theorem State.endCommand_ctr : (State.endCommand e s).ctr = s.ctr := rfl
@[simp] theorem State.endCommand_buf : (State.endCommand e s).buf = s.buf := rfl
@[simp] theorem State.endCommand_inputs : (State.endCommand e s).inputs = s.inputs := rfl
@[simp] theorem State.endCommand_transcript : (State.endCommand e s).transcript = s.transcript := rfl
@[simp] theorem State.endCommand_delay : (State.endCommand e s).delay = 0 := rfl
@[simp] theorem State.endCommand_delays : (State.endCommand e s).delays = s.delays := rfl
@[simp] theorem State.endCommand_raced : (State.endCommand e s).raced = false := rfl
@[simp] theorem State.endCommand_resetHold : (State.endCommand e s).resetHold = s.resetHold := rfl
@[simp] theorem State.endCommand_draws : (State.endCommand e s).draws = s.draws + 1 := rfl

end endCommand

section raiseError

variable (e : CmdError) (s : State)

@[simp] theorem State.raiseError_memSize : (State.raiseError e s).memSize = s.memSize := rfl
@[simp] theorem State.raiseError_args : (State.raiseError e s).args = s.args := rfl
@[simp] theorem State.raiseError_result : (State.raiseError e s).result = s.result := rfl
@[simp] theorem State.raiseError_phase : (State.raiseError e s).phase = .idle := rfl
@[simp] theorem State.raiseError_done : (State.raiseError e s).done = true := rfl
@[simp] theorem State.raiseError_dropped : (State.raiseError e s).dropped = s.dropped := rfl
@[simp] theorem State.raiseError_err : (State.raiseError e s).err = e.code := rfl
@[simp] theorem State.raiseError_latch : (State.raiseError e s).latch = idleLatch s.draws := rfl
@[simp] theorem State.raiseError_ctr : (State.raiseError e s).ctr = s.ctr := rfl
@[simp] theorem State.raiseError_buf : (State.raiseError e s).buf = s.buf := rfl
@[simp] theorem State.raiseError_inputs : (State.raiseError e s).inputs = s.inputs := rfl
@[simp] theorem State.raiseError_transcript : (State.raiseError e s).transcript = s.transcript := rfl
@[simp] theorem State.raiseError_delay : (State.raiseError e s).delay = 0 := rfl
@[simp] theorem State.raiseError_delays : (State.raiseError e s).delays = s.delays := rfl
@[simp] theorem State.raiseError_raced : (State.raiseError e s).raced = false := rfl
@[simp] theorem State.raiseError_resetHold : (State.raiseError e s).resetHold = s.resetHold := rfl
@[simp] theorem State.raiseError_draws : (State.raiseError e s).draws = s.draws + 1 := rfl

end raiseError

section resetRegs

variable (hold : Nat) (s : State)

@[simp] theorem State.resetRegs_memSize : (State.resetRegs hold s).memSize = s.memSize := rfl
@[simp] theorem State.resetRegs_args : (State.resetRegs hold s).args = zeroArgs := rfl
@[simp] theorem State.resetRegs_result : (State.resetRegs hold s).result = 0 := rfl
@[simp] theorem State.resetRegs_phase : (State.resetRegs hold s).phase = .idle := rfl
@[simp] theorem State.resetRegs_done : (State.resetRegs hold s).done = false := rfl
@[simp] theorem State.resetRegs_dropped : (State.resetRegs hold s).dropped = false := rfl
@[simp] theorem State.resetRegs_err : (State.resetRegs hold s).err = .ok := rfl
@[simp] theorem State.resetRegs_latch : (State.resetRegs hold s).latch = idleLatch s.draws := rfl
@[simp] theorem State.resetRegs_ctr : (State.resetRegs hold s).ctr = idleCtr s.draws := rfl
@[simp] theorem State.resetRegs_buf : (State.resetRegs hold s).buf = s.buf := rfl
@[simp] theorem State.resetRegs_inputs : (State.resetRegs hold s).inputs = s.inputs := rfl
@[simp] theorem State.resetRegs_transcript : (State.resetRegs hold s).transcript = s.transcript := rfl
@[simp] theorem State.resetRegs_delay : (State.resetRegs hold s).delay = 0 := rfl
@[simp] theorem State.resetRegs_delays : (State.resetRegs hold s).delays = s.delays := rfl
@[simp] theorem State.resetRegs_raced : (State.resetRegs hold s).raced = false := rfl
@[simp] theorem State.resetRegs_resetHold : (State.resetRegs hold s).resetHold = hold := rfl
@[simp] theorem State.resetRegs_draws : (State.resetRegs hold s).draws = s.draws + 1 := rfl

end resetRegs

section tick

variable (s : State)

@[simp] theorem State.tick_memSize : (State.tick s).memSize = s.memSize := rfl
@[simp] theorem State.tick_args : (State.tick s).args = s.args := rfl
@[simp] theorem State.tick_result : (State.tick s).result = s.result := rfl
@[simp] theorem State.tick_phase : (State.tick s).phase = s.phase := rfl
@[simp] theorem State.tick_done : (State.tick s).done = s.done := rfl
@[simp] theorem State.tick_dropped : (State.tick s).dropped = s.dropped := rfl
@[simp] theorem State.tick_err : (State.tick s).err = s.err := rfl
@[simp] theorem State.tick_latch : (State.tick s).latch = s.latch := rfl
@[simp] theorem State.tick_ctr : (State.tick s).ctr = s.ctr := rfl
@[simp] theorem State.tick_buf : (State.tick s).buf = s.buf := rfl
@[simp] theorem State.tick_inputs : (State.tick s).inputs = s.inputs := rfl
@[simp] theorem State.tick_transcript : (State.tick s).transcript = s.transcript := rfl
@[simp] theorem State.tick_delay : (State.tick s).delay = s.delay - 1 := rfl
@[simp] theorem State.tick_delays : (State.tick s).delays = s.delays := rfl
@[simp] theorem State.tick_raced : (State.tick s).raced = s.raced := rfl
@[simp] theorem State.tick_resetHold : (State.tick s).resetHold = s.resetHold := rfl
@[simp] theorem State.tick_draws : (State.tick s).draws = s.draws := rfl

end tick

section caddBody

variable (a : CaddArgs) (s : State)

@[simp] theorem caddBody_memSize : (caddBody a s).memSize = s.memSize := by simp only [caddBody]
@[simp] theorem caddBody_args : (caddBody a s).args = s.args := by simp only [caddBody]
@[simp] theorem caddBody_result : (caddBody a s).result = s.result := by simp only [caddBody]
@[simp] theorem caddBody_phase : (caddBody a s).phase = s.phase := by simp only [caddBody]
@[simp] theorem caddBody_done : (caddBody a s).done = s.done := by simp only [caddBody]
@[simp] theorem caddBody_dropped : (caddBody a s).dropped = s.dropped := by simp only [caddBody]
@[simp] theorem caddBody_err : (caddBody a s).err = s.err := by simp only [caddBody]
@[simp] theorem caddBody_latch : (caddBody a s).latch = s.latch := by simp only [caddBody]
@[simp] theorem caddBody_ctr : (caddBody a s).ctr = s.ctr := by simp only [caddBody]
@[simp] theorem caddBody_buf : (caddBody a s).buf = storeCounter s.buf a.ctrAddr (counterAdd (loadCounter s.buf a.ctrAddr) a.delta) := by simp only [caddBody]
@[simp] theorem caddBody_inputs : (caddBody a s).inputs = s.inputs := by simp only [caddBody]
@[simp] theorem caddBody_transcript : (caddBody a s).transcript = s.transcript := by simp only [caddBody]
@[simp] theorem caddBody_delay : (caddBody a s).delay = s.delay := by simp only [caddBody]
@[simp] theorem caddBody_delays : (caddBody a s).delays = s.delays := by simp only [caddBody]
@[simp] theorem caddBody_raced : (caddBody a s).raced = s.raced := by simp only [caddBody]
@[simp] theorem caddBody_resetHold : (caddBody a s).resetHold = s.resetHold := by simp only [caddBody]
@[simp] theorem caddBody_draws : (caddBody a s).draws = s.draws := by simp only [caddBody]

end caddBody

section kgenStart

variable (a : KgenArgs) (s : State)

@[simp] theorem kgenStart_memSize : (kgenStart a s).memSize = s.memSize := by simp only [kgenStart]
@[simp] theorem kgenStart_args : (kgenStart a s).args = s.args := by simp only [kgenStart]
@[simp] theorem kgenStart_result : (kgenStart a s).result = s.result := by simp only [kgenStart]
@[simp] theorem kgenStart_phase : (kgenStart a s).phase = s.phase := by simp only [kgenStart]
@[simp] theorem kgenStart_done : (kgenStart a s).done = s.done := by simp only [kgenStart]
@[simp] theorem kgenStart_dropped : (kgenStart a s).dropped = s.dropped := by simp only [kgenStart]
@[simp] theorem kgenStart_err : (kgenStart a s).err = s.err := by simp only [kgenStart]
@[simp] theorem kgenStart_latch : (kgenStart a s).latch = s.latch := by simp only [kgenStart]
@[simp] theorem kgenStart_ctr : (kgenStart a s).ctr = counterAdd (loadCounter s.buf a.seedAddr) (BitVec.ofInt 64 a.offset) := by simp only [kgenStart]
@[simp] theorem kgenStart_buf : (kgenStart a s).buf = s.buf := by simp only [kgenStart]
@[simp] theorem kgenStart_inputs : (kgenStart a s).inputs = s.inputs := by simp only [kgenStart]
@[simp] theorem kgenStart_transcript : (kgenStart a s).transcript = s.transcript := by simp only [kgenStart]
@[simp] theorem kgenStart_delay : (kgenStart a s).delay = s.delay := by simp only [kgenStart]
@[simp] theorem kgenStart_delays : (kgenStart a s).delays = s.delays := by simp only [kgenStart]
@[simp] theorem kgenStart_raced : (kgenStart a s).raced = s.raced := by simp only [kgenStart]
@[simp] theorem kgenStart_resetHold : (kgenStart a s).resetHold = s.resetHold := by simp only [kgenStart]
@[simp] theorem kgenStart_draws : (kgenStart a s).draws = s.draws := by simp only [kgenStart]

end kgenStart

section nm16Body

variable (n : Int) (s : State)

@[simp] theorem nm16Body_memSize : (nm16Body n s).memSize = s.memSize := by simp only [nm16Body]
@[simp] theorem nm16Body_args : (nm16Body n s).args = s.args := by simp only [nm16Body]
@[simp] theorem nm16Body_result : (nm16Body n s).result = BitVec.ofInt 64 (nm16 n) := by simp only [nm16Body]
@[simp] theorem nm16Body_phase : (nm16Body n s).phase = s.phase := by simp only [nm16Body]
@[simp] theorem nm16Body_done : (nm16Body n s).done = s.done := by simp only [nm16Body]
@[simp] theorem nm16Body_dropped : (nm16Body n s).dropped = s.dropped := by simp only [nm16Body]
@[simp] theorem nm16Body_err : (nm16Body n s).err = s.err := by simp only [nm16Body]
@[simp] theorem nm16Body_latch : (nm16Body n s).latch = s.latch := by simp only [nm16Body]
@[simp] theorem nm16Body_ctr : (nm16Body n s).ctr = s.ctr := by simp only [nm16Body]
@[simp] theorem nm16Body_buf : (nm16Body n s).buf = s.buf := by simp only [nm16Body]
@[simp] theorem nm16Body_inputs : (nm16Body n s).inputs = s.inputs := by simp only [nm16Body]
@[simp] theorem nm16Body_transcript : (nm16Body n s).transcript = s.transcript := by simp only [nm16Body]
@[simp] theorem nm16Body_delay : (nm16Body n s).delay = s.delay := by simp only [nm16Body]
@[simp] theorem nm16Body_delays : (nm16Body n s).delays = s.delays := by simp only [nm16Body]
@[simp] theorem nm16Body_raced : (nm16Body n s).raced = s.raced := by simp only [nm16Body]
@[simp] theorem nm16Body_resetHold : (nm16Body n s).resetHold = s.resetHold := by simp only [nm16Body]
@[simp] theorem nm16Body_draws : (nm16Body n s).draws = s.draws := by simp only [nm16Body]

end nm16Body

section xapplyBody

variable (a : XapplyArgs) (s : State)

@[simp] theorem xapplyBody_memSize : (xapplyBody a s).memSize = s.memSize := by simp only [xapplyBody]
@[simp] theorem xapplyBody_args : (xapplyBody a s).args = s.args := by simp only [xapplyBody]
@[simp] theorem xapplyBody_result : (xapplyBody a s).result = s.result := by simp only [xapplyBody]
@[simp] theorem xapplyBody_phase : (xapplyBody a s).phase = s.phase := by simp only [xapplyBody]
@[simp] theorem xapplyBody_done : (xapplyBody a s).done = s.done := by simp only [xapplyBody]
@[simp] theorem xapplyBody_dropped : (xapplyBody a s).dropped = s.dropped := by simp only [xapplyBody]
@[simp] theorem xapplyBody_err : (xapplyBody a s).err = s.err := by simp only [xapplyBody]
@[simp] theorem xapplyBody_latch : (xapplyBody a s).latch = s.latch := by simp only [xapplyBody]
@[simp] theorem xapplyBody_ctr : (xapplyBody a s).ctr = s.ctr := by simp only [xapplyBody]
@[simp] theorem xapplyBody_buf : (xapplyBody a s).buf = xorLoop a.srcAddr a.keyStart a.length.toNat 0 s.buf := by simp only [xapplyBody]
@[simp] theorem xapplyBody_inputs : (xapplyBody a s).inputs = s.inputs := by simp only [xapplyBody]
@[simp] theorem xapplyBody_transcript : (xapplyBody a s).transcript = s.transcript := by simp only [xapplyBody]
@[simp] theorem xapplyBody_delay : (xapplyBody a s).delay = s.delay := by simp only [xapplyBody]
@[simp] theorem xapplyBody_delays : (xapplyBody a s).delays = s.delays := by simp only [xapplyBody]
@[simp] theorem xapplyBody_raced : (xapplyBody a s).raced = s.raced := by simp only [xapplyBody]
@[simp] theorem xapplyBody_resetHold : (xapplyBody a s).resetHold = s.resetHold := by simp only [xapplyBody]
@[simp] theorem xapplyBody_draws : (xapplyBody a s).draws = s.draws := by simp only [xapplyBody]

end xapplyBody

section hostWriteBuf

variable (n a : Nat) (v : Word) (s : State)

@[simp] theorem hostWriteBuf_memSize : (hostWriteBuf n a v s).memSize = s.memSize := by simp only [hostWriteBuf]
@[simp] theorem hostWriteBuf_args : (hostWriteBuf n a v s).args = s.args := by simp only [hostWriteBuf]
@[simp] theorem hostWriteBuf_result : (hostWriteBuf n a v s).result = s.result := by simp only [hostWriteBuf]
@[simp] theorem hostWriteBuf_phase : (hostWriteBuf n a v s).phase = s.phase := by simp only [hostWriteBuf]
@[simp] theorem hostWriteBuf_done : (hostWriteBuf n a v s).done = s.done := by simp only [hostWriteBuf]
@[simp] theorem hostWriteBuf_dropped : (hostWriteBuf n a v s).dropped = s.dropped := by simp only [hostWriteBuf]
@[simp] theorem hostWriteBuf_err : (hostWriteBuf n a v s).err = s.err := by simp only [hostWriteBuf]
@[simp] theorem hostWriteBuf_latch : (hostWriteBuf n a v s).latch = s.latch := by simp only [hostWriteBuf]
@[simp] theorem hostWriteBuf_ctr : (hostWriteBuf n a v s).ctr = s.ctr := by simp only [hostWriteBuf]
@[simp] theorem hostWriteBuf_buf : (hostWriteBuf n a v s).buf = writeBytes s.buf a (bytesBE n v.toNat) := by simp only [hostWriteBuf]
@[simp] theorem hostWriteBuf_inputs : (hostWriteBuf n a v s).inputs = s.inputs := by simp only [hostWriteBuf]
@[simp] theorem hostWriteBuf_transcript : (hostWriteBuf n a v s).transcript = s.transcript := by simp only [hostWriteBuf]
@[simp] theorem hostWriteBuf_delay : (hostWriteBuf n a v s).delay = s.delay := by simp only [hostWriteBuf]
@[simp] theorem hostWriteBuf_delays : (hostWriteBuf n a v s).delays = s.delays := by simp only [hostWriteBuf]
@[simp] theorem hostWriteBuf_raced : (hostWriteBuf n a v s).raced = (s.raced || s.writeRaces a n) := by simp only [hostWriteBuf]
@[simp] theorem hostWriteBuf_resetHold : (hostWriteBuf n a v s).resetHold = s.resetHold := by simp only [hostWriteBuf]
@[simp] theorem hostWriteBuf_draws : (hostWriteBuf n a v s).draws = s.draws := by simp only [hostWriteBuf]

end hostWriteBuf

section drawDelay

variable (s : State)

@[simp] theorem State.drawDelay_memSize : (State.drawDelay s).memSize = s.memSize := by unfold State.drawDelay; split <;> rfl
@[simp] theorem State.drawDelay_args : (State.drawDelay s).args = s.args := by unfold State.drawDelay; split <;> rfl
@[simp] theorem State.drawDelay_result : (State.drawDelay s).result = s.result := by unfold State.drawDelay; split <;> rfl
@[simp] theorem State.drawDelay_phase : (State.drawDelay s).phase = s.phase := by unfold State.drawDelay; split <;> rfl
@[simp] theorem State.drawDelay_done : (State.drawDelay s).done = s.done := by unfold State.drawDelay; split <;> rfl
@[simp] theorem State.drawDelay_dropped : (State.drawDelay s).dropped = s.dropped := by unfold State.drawDelay; split <;> rfl
@[simp] theorem State.drawDelay_err : (State.drawDelay s).err = s.err := by unfold State.drawDelay; split <;> rfl
@[simp] theorem State.drawDelay_latch : (State.drawDelay s).latch = s.latch := by unfold State.drawDelay; split <;> rfl
@[simp] theorem State.drawDelay_ctr : (State.drawDelay s).ctr = s.ctr := by unfold State.drawDelay; split <;> rfl
@[simp] theorem State.drawDelay_buf : (State.drawDelay s).buf = s.buf := by unfold State.drawDelay; split <;> rfl
@[simp] theorem State.drawDelay_inputs : (State.drawDelay s).inputs = s.inputs := by unfold State.drawDelay; split <;> rfl
@[simp] theorem State.drawDelay_transcript : (State.drawDelay s).transcript = s.transcript := by unfold State.drawDelay; split <;> rfl
@[simp] theorem State.drawDelay_raced : (State.drawDelay s).raced = s.raced := by unfold State.drawDelay; split <;> rfl
@[simp] theorem State.drawDelay_resetHold : (State.drawDelay s).resetHold = s.resetHold := by unfold State.drawDelay; split <;> rfl

end drawDelay

section settleRace

variable (sp : Span) (s : State)

@[simp] theorem State.settleRace_memSize : (State.settleRace sp s).memSize = s.memSize := by unfold State.settleRace; split <;> rfl
@[simp] theorem State.settleRace_args : (State.settleRace sp s).args = s.args := by unfold State.settleRace; split <;> rfl
@[simp] theorem State.settleRace_result : (State.settleRace sp s).result = s.result := by unfold State.settleRace; split <;> rfl
@[simp] theorem State.settleRace_phase : (State.settleRace sp s).phase = s.phase := by unfold State.settleRace; split <;> rfl
@[simp] theorem State.settleRace_done : (State.settleRace sp s).done = s.done := by unfold State.settleRace; split <;> rfl
@[simp] theorem State.settleRace_dropped : (State.settleRace sp s).dropped = s.dropped := by unfold State.settleRace; split <;> rfl
@[simp] theorem State.settleRace_err : (State.settleRace sp s).err = s.err := by unfold State.settleRace; split <;> rfl
@[simp] theorem State.settleRace_latch : (State.settleRace sp s).latch = s.latch := by unfold State.settleRace; split <;> rfl
@[simp] theorem State.settleRace_ctr : (State.settleRace sp s).ctr = s.ctr := by unfold State.settleRace; split <;> rfl
@[simp] theorem State.settleRace_inputs : (State.settleRace sp s).inputs = s.inputs := by unfold State.settleRace; split <;> rfl
@[simp] theorem State.settleRace_transcript : (State.settleRace sp s).transcript = s.transcript := by unfold State.settleRace; split <;> rfl
@[simp] theorem State.settleRace_delay : (State.settleRace sp s).delay = s.delay := by unfold State.settleRace; split <;> rfl
@[simp] theorem State.settleRace_delays : (State.settleRace sp s).delays = s.delays := by unfold State.settleRace; split <;> rfl
@[simp] theorem State.settleRace_raced : (State.settleRace sp s).raced = s.raced := by unfold State.settleRace; split <;> rfl
@[simp] theorem State.settleRace_resetHold : (State.settleRace sp s).resetHold = s.resetHold := by unfold State.settleRace; split <;> rfl

end settleRace

section abort

variable (s : State)

@[simp] theorem State.abort_memSize : (State.abort s).memSize = s.memSize := by unfold State.abort; split <;> rfl
@[simp] theorem State.abort_args : (State.abort s).args = s.args := by unfold State.abort; split <;> rfl
@[simp] theorem State.abort_result : (State.abort s).result = s.result := by unfold State.abort; split <;> rfl
@[simp] theorem State.abort_phase : (State.abort s).phase = s.phase := by unfold State.abort; split <;> rfl
@[simp] theorem State.abort_done : (State.abort s).done = s.done := by unfold State.abort; split <;> rfl
@[simp] theorem State.abort_dropped : (State.abort s).dropped = s.dropped := by unfold State.abort; split <;> rfl
@[simp] theorem State.abort_err : (State.abort s).err = s.err := by unfold State.abort; split <;> rfl
@[simp] theorem State.abort_latch : (State.abort s).latch = s.latch := by unfold State.abort; split <;> rfl
@[simp] theorem State.abort_ctr : (State.abort s).ctr = s.ctr := by unfold State.abort; split <;> rfl
@[simp] theorem State.abort_inputs : (State.abort s).inputs = s.inputs := by unfold State.abort; split <;> rfl
@[simp] theorem State.abort_transcript : (State.abort s).transcript = s.transcript := by unfold State.abort; split <;> rfl
@[simp] theorem State.abort_delay : (State.abort s).delay = s.delay := by unfold State.abort; split <;> rfl
@[simp] theorem State.abort_delays : (State.abort s).delays = s.delays := by unfold State.abort; split <;> rfl
@[simp] theorem State.abort_raced : (State.abort s).raced = s.raced := by unfold State.abort; split <;> rfl
@[simp] theorem State.abort_resetHold : (State.abort s).resetHold = s.resetHold := by unfold State.abort; split <;> rfl

end abort

section drawRead

variable (n a : Nat) (s : State)

@[simp] theorem drawRead_memSize : (drawRead n a s).memSize = s.memSize := by unfold drawRead; split <;> rfl
@[simp] theorem drawRead_args : (drawRead n a s).args = s.args := by unfold drawRead; split <;> rfl
@[simp] theorem drawRead_result : (drawRead n a s).result = s.result := by unfold drawRead; split <;> rfl
@[simp] theorem drawRead_phase : (drawRead n a s).phase = s.phase := by unfold drawRead; split <;> rfl
@[simp] theorem drawRead_done : (drawRead n a s).done = s.done := by unfold drawRead; split <;> rfl
@[simp] theorem drawRead_dropped : (drawRead n a s).dropped = s.dropped := by unfold drawRead; split <;> rfl
@[simp] theorem drawRead_err : (drawRead n a s).err = s.err := by unfold drawRead; split <;> rfl
@[simp] theorem drawRead_latch : (drawRead n a s).latch = s.latch := by unfold drawRead; split <;> rfl
@[simp] theorem drawRead_ctr : (drawRead n a s).ctr = s.ctr := by unfold drawRead; split <;> rfl
@[simp] theorem drawRead_buf : (drawRead n a s).buf = s.buf := by unfold drawRead; split <;> rfl
@[simp] theorem drawRead_inputs : (drawRead n a s).inputs = s.inputs := by unfold drawRead; split <;> rfl
@[simp] theorem drawRead_transcript : (drawRead n a s).transcript = s.transcript := by unfold drawRead; split <;> rfl
@[simp] theorem drawRead_delay : (drawRead n a s).delay = s.delay := by unfold drawRead; split <;> rfl
@[simp] theorem drawRead_delays : (drawRead n a s).delays = s.delays := by unfold drawRead; split <;> rfl
@[simp] theorem drawRead_raced : (drawRead n a s).raced = s.raced := by unfold drawRead; split <;> rfl
@[simp] theorem drawRead_resetHold : (drawRead n a s).resetHold = s.resetHold := by unfold drawRead; split <;> rfl

end drawRead

end Sys2Proof.Machine
end

