-- ==== Sys2Proof/Laws/Memory.lean ====
section
/-! SUPPORT. What the memory operations do: a read after a write, and the canonical form they keep. -/

namespace Sys2Proof.Machine

/-! ### The canonical form -/

@[simp] theorem Memory.wf_nil : Memory.wf [] = true := rfl

theorem Memory.wf_cons (k : Nat) (b : Byte) (m : Memory) :
    Memory.wf ((k, b) :: m) = true ↔ b ≠ unlistedByte ∧ Memory.above k m = true ∧ Memory.wf m = true := by
  simp [Memory.wf, and_assoc]

theorem Memory.above_iff (a : Nat) (m : Memory) : Memory.above a m = true ↔ ∀ c ∈ m, a < c.1 := by
  simp [Memory.above]

theorem Memory.below_iff (n : Nat) (m : Memory) : Memory.below n m = true ↔ ∀ c ∈ m, c.1 < n := by
  simp [Memory.below]

/-- A list whose addresses are all above `a` has nothing at `a`. -/
theorem readByte_of_above {m : Memory} {a b : Nat} (h : Memory.above a m = true) (hb : b ≤ a) :
    readByte m b = unlistedByte := by
  induction m with
  | nil => rfl
  | cons c m ih =>
    obtain ⟨k, v⟩ := c
    rw [Memory.above_iff] at h
    have hk : a < k := h (k, v) (by simp)
    have : k ≠ b := by omega
    simpa [readByte, this] using ih ((Memory.above_iff _ _).2 fun c hc => h c (by simp [hc]))

/-- Every address that a write lists was listed before or is the written one. -/
theorem mem_writeByte {m : Memory} {a : Nat} {v : Byte} {c : Host.Cell} (h : c ∈ writeByte m a v) :
    c ∈ m ∨ c.1 = a := by
  induction m with
  | nil =>
    by_cases hv : v = unlistedByte
    · simp [writeByte, hv] at h
    · simp [writeByte, hv] at h
      exact .inr (by rw [h])
  | cons d m ih =>
    obtain ⟨k, b⟩ := d
    simp only [writeByte] at h
    split at h
    · split at h
      · exact .inl h
      · rcases List.mem_cons.1 h with rfl | h
        · exact .inr rfl
        · exact .inl h
    · split at h
      · rename_i hk
        split at h
        · exact .inl (by simp [h])
        · rcases List.mem_cons.1 h with rfl | h
          · exact .inr hk.symm
          · exact .inl (by simp [h])
      · rcases List.mem_cons.1 h with rfl | h
        · exact .inl (by simp)
        · rcases ih h with h | h
          · exact .inl (by simp [h])
          · exact .inr h

theorem Memory.above_writeByte {m : Memory} {a k : Nat} {v : Byte} (h : Memory.above k m = true) (hk : k < a) :
    Memory.above k (writeByte m a v) = true := by
  rw [Memory.above_iff] at *
  intro c hc
  rcases mem_writeByte hc with hc | rfl
  · exact h c hc
  · exact hk

theorem Memory.below_writeByte {m : Memory} {a n : Nat} {v : Byte} (h : Memory.below n m = true) (ha : a < n) :
    Memory.below n (writeByte m a v) = true := by
  rw [Memory.below_iff] at *
  intro c hc
  rcases mem_writeByte hc with hc | rfl
  · exact h c hc
  · exact ha

/-- A byte write keeps the canonical form. -/
theorem Memory.wf_writeByte {m : Memory} (a : Nat) (v : Byte) (h : Memory.wf m = true) :
    Memory.wf (writeByte m a v) = true := by
  induction m with
  | nil => by_cases hv : v = unlistedByte <;> simp [writeByte, hv, Memory.wf, Memory.above]
  | cons d m ih =>
    obtain ⟨k, b⟩ := d
    have h0 := h
    rw [Memory.wf_cons] at h
    obtain ⟨hb, hk, hm⟩ := h
    simp only [writeByte]
    split
    · rename_i hak
      split
      · exact h0
      · rename_i hv
        refine (Memory.wf_cons _ _ _).2 ⟨hv, ?_, h0⟩
        rw [Memory.above_iff] at *
        intro c hc
        rcases List.mem_cons.1 hc with rfl | hc
        · exact hak
        · exact lt_trans hak (hk c hc)
    · split
      · split
        · exact hm
        · rename_i hv
          exact (Memory.wf_cons _ _ _).2 ⟨hv, hk, hm⟩
      · exact (Memory.wf_cons _ _ _).2 ⟨hb, Memory.above_writeByte hk (by omega), ih hm⟩

/-- The law of one byte: a read after a write gives the written byte there and the old one elsewhere. -/
theorem readByte_writeByte {m : Memory} (a : Nat) (v : Byte) (b : Nat) (h : Memory.wf m = true) :
    readByte (writeByte m a v) b = if b = a then v else readByte m b := by
  induction m with
  | nil =>
    by_cases hv : v = unlistedByte
    · simp [writeByte, hv, readByte]
    · simp [writeByte, hv, readByte, eq_comm]
  | cons d m ih =>
    obtain ⟨k, c⟩ := d
    rw [Memory.wf_cons] at h
    obtain ⟨hc, hk, hm⟩ := h
    simp only [writeByte]
    split
    · rename_i hak
      split
      · rename_i hv
        split
        · rename_i hba
          subst hba
          have hkb : k ≠ b := by omega
          simp only [readByte, hkb, if_false, hv]
          exact readByte_of_above hk (by omega)
        · rfl
      · by_cases hba : b = a
        · simp [readByte, hba]
        · have : a ≠ b := fun h => hba h.symm
          simp [readByte, this, hba]
    · split
      · rename_i hak
        subst hak
        split
        · rename_i hv
          by_cases hba : b = a
          · subst hba
            simp [hv, readByte_of_above hk (le_refl _)]
          · have : a ≠ b := fun h => hba h.symm
            simp [readByte, hba, this]
        · by_cases hba : b = a
          · simp [readByte, hba]
          · have : a ≠ b := fun h => hba h.symm
            simp [readByte, this, hba]
      · rename_i hak
        by_cases hkb : k = b
        · subst hkb
          have : k ≠ a := fun h => hak h.symm
          simp [readByte, this]
        · simp [readByte, hkb, ih hm]

/-- A byte that a canonical memory lists is one it would not hold unlisted. -/
theorem readByte_head_ne {k : Nat} {b : Byte} {m : Memory} (h : Memory.wf ((k, b) :: m) = true) :
    readByte ((k, b) :: m) k ≠ unlistedByte := by
  simpa [readByte] using ((Memory.wf_cons _ _ _).1 h).1

/-- Two canonical memories that read alike are the same data. -/
theorem Memory.ext_read {m m' : Memory} (h : Memory.wf m = true) (h' : Memory.wf m' = true)
    (e : ∀ a, readByte m a = readByte m' a) : m = m' := by
  induction m generalizing m' with
  | nil =>
    cases m' with
    | nil => rfl
    | cons d m' => exact absurd (e d.1).symm (readByte_head_ne h')
  | cons c m ih =>
    obtain ⟨k, b⟩ := c
    cases m' with
    | nil => exact absurd (e k) (readByte_head_ne h)
    | cons d m' =>
      obtain ⟨k', b'⟩ := d
      obtain ⟨hb, hk, hm⟩ := (Memory.wf_cons _ _ _).1 h
      obtain ⟨hb', hk', hm'⟩ := (Memory.wf_cons _ _ _).1 h'
      have key : k = k' := by
        by_contra hne
        rcases Nat.lt_or_gt_of_ne hne with hlt | hlt
        · have := e k
          have h2 : k' ≠ k := fun h => hne h.symm
          simp only [readByte, if_true, h2, if_false] at this
          exact hb (this.trans (readByte_of_above hk' hlt.le))
        · have := e k'
          simp only [readByte, if_true, hne, if_false] at this
          exact hb' (this.symm.trans (readByte_of_above hk hlt.le))
      subst key
      have hbb : b = b' := by simpa [readByte] using e k
      subst hbb
      rw [ih hm hm' fun a => ?_]
      by_cases ha : a = k
      · rw [ha, readByte_of_above hk (le_refl _), readByte_of_above hk' (le_refl _)]
      · have : k ≠ a := fun h => ha h.symm
        simpa [readByte, this] using e a

/-! ### Sequences of bytes -/

theorem Memory.wf_writeBytes {m : Memory} (a : Nat) (l : List Byte) (h : Memory.wf m = true) :
    Memory.wf (writeBytes m a l) = true := by
  induction l generalizing m a with
  | nil => exact h
  | cons b l ih => exact ih (a + 1) (Memory.wf_writeByte a b h)

theorem Memory.below_writeBytes {m : Memory} {n : Nat} (a : Nat) (l : List Byte) (h : Memory.below n m = true)
    (ha : a + l.length ≤ n) : Memory.below n (writeBytes m a l) = true := by
  induction l generalizing m a with
  | nil => exact h
  | cons b l ih =>
    simp only [List.length_cons] at ha
    exact ih (a + 1) (Memory.below_writeByte h (by omega)) (by omega)

/-- What a sequence write leaves outside its bytes. -/
theorem readByte_writeBytes_outside {m : Memory} {a b : Nat} {l : List Byte} (h : Memory.wf m = true)
    (hb : b < a ∨ a + l.length ≤ b) : readByte (writeBytes m a l) b = readByte m b := by
  induction l generalizing m a with
  | nil => rfl
  | cons v l ih =>
    simp only [List.length_cons] at hb
    have hne : b ≠ a := by omega
    rw [writeBytes, ih (Memory.wf_writeByte a v h) (by omega), readByte_writeByte a v b h, if_neg hne]

/-- What a sequence write stores: byte j of the sequence at address a + j. -/
theorem readByte_writeBytes_inside {m : Memory} {a j : Nat} {l : List Byte} (h : Memory.wf m = true)
    (hj : j < l.length) : readByte (writeBytes m a l) (a + j) = l[j] := by
  induction l generalizing m a j with
  | nil => simp at hj
  | cons v l ih =>
    rw [writeBytes]
    cases j with
    | zero =>
      rw [readByte_writeBytes_outside (Memory.wf_writeByte a v h) (by omega), readByte_writeByte a v _ h]
      simp
    | succ j =>
      have := ih (m := writeByte m a v) (a := a + 1) (j := j) (Memory.wf_writeByte a v h) (by simpa using hj)
      rw [show a + (j + 1) = a + 1 + j by omega, this]
      simp

@[simp] theorem length_readBytes (m : Memory) (a n : Nat) : (readBytes m a n).length = n := by
  induction n generalizing a with
  | zero => rfl
  | succ n ih => simp [readBytes, ih]

theorem getElem_readBytes (m : Memory) (a n j : Nat) (h : j < (readBytes m a n).length) :
    (readBytes m a n)[j] = readByte m (a + j) := by
  induction n generalizing a j with
  | zero => simp at h
  | succ n ih =>
    cases j with
    | zero => rfl
    | succ j =>
      simp only [readBytes, List.getElem_cons_succ]
      rw [ih (a + 1) j (by simpa using h)]
      congr 1
      omega

/-- A sequence read depends on the bytes it reads only. -/
theorem readBytes_congr {m m' : Memory} {a n : Nat} (h : ∀ j, j < n → readByte m (a + j) = readByte m' (a + j)) :
    readBytes m a n = readBytes m' a n := by
  refine List.ext_getElem (by simp) fun j h1 h2 => ?_
  rw [getElem_readBytes, getElem_readBytes]
  exact h j (by simpa using h1)

@[simp] theorem length_spanBytes (f : Nat → Byte) (sp : Span) : (spanBytes f sp).length = sp.len := by
  simp [spanBytes]

theorem Memory.wf_fillSpan {m : Memory} (f : Nat → Byte) (sp : Span) (h : Memory.wf m = true) :
    Memory.wf (fillSpan f sp m) = true := Memory.wf_writeBytes _ _ h

theorem Memory.below_fillSpan {m : Memory} {n : Nat} (f : Nat → Byte) (sp : Span) (h : Memory.below n m = true)
    (hs : sp.start + sp.len ≤ n) : Memory.below n (fillSpan f sp m) = true :=
  Memory.below_writeBytes _ _ h (by simpa using hs)

/-- Filling a span leaves every other byte. -/
theorem readByte_fillSpan_outside {m : Memory} (f : Nat → Byte) {sp : Span} {b : Nat} (h : Memory.wf m = true)
    (hb : sp.contains b = false) : readByte (fillSpan f sp m) b = readByte m b := by
  refine readByte_writeBytes_outside h ?_
  simp [Span.contains] at hb
  simp
  omega

@[simp] theorem Span.contains_empty (b : Nat) : Span.empty.contains b = false := by
  simp [Span.contains, Span.empty]

@[simp] theorem fillSpan_empty (f : Nat → Byte) (m : Memory) : fillSpan f Span.empty m = m := rfl

/-! ### Counters in memory, and power-on contents -/

theorem Memory.wf_storeCounter {m : Memory} (a : Nat) (v : Counter) (h : Memory.wf m = true) :
    Memory.wf (storeCounter m a v) = true := Memory.wf_writeBytes _ _ h

theorem Memory.below_storeCounter {m : Memory} {n : Nat} (a : Nat) (v : Counter) (h : Memory.below n m = true)
    (ha : a + 16 ≤ n) : Memory.below n (storeCounter m a v) = true :=
  Memory.below_writeBytes _ _ h (by simpa using ha)

theorem readByte_storeCounter_outside {m : Memory} {a b : Nat} (v : Counter) (h : Memory.wf m = true)
    (hb : b < a ∨ a + 16 ≤ b) : readByte (storeCounter m a v) b = readByte m b :=
  readByte_writeBytes_outside h (by simpa using hb)

theorem readByte_storeCounter_inside {m : Memory} {a : Nat} (v : Counter) (h : Memory.wf m = true) (j : Nat)
    (hj : j < 16) : readByte (storeCounter m a v) (a + j) = v[j] := by
  rw [storeCounter, readByte_writeBytes_inside h (by simpa using hj)]
  simp

/-- A stored counter reads back. -/
theorem loadCounter_storeCounter {m : Memory} (a : Nat) (v : Counter) (h : Memory.wf m = true) :
    loadCounter (storeCounter m a v) a = v := by
  refine Vector.ext fun j hj => ?_
  simp [loadCounter, readByte_storeCounter_inside v h j hj]

/-- The sixteen bytes of memory are the loaded counter's, in order. -/
theorem toList_loadCounter (m : Memory) (a : Nat) : (loadCounter m a).toList = readBytes m a 16 := by
  refine List.ext_getElem (by simp) fun j h1 h2 => ?_
  rw [getElem_readBytes]
  simp [loadCounter]

/-- A counter load depends on its sixteen bytes only. -/
theorem loadCounter_congr {m m' : Memory} {a : Nat} (h : ∀ j, j < 16 → readByte m (a + j) = readByte m' (a + j)) :
    loadCounter m a = loadCounter m' a := by
  refine Vector.ext fun j hj => ?_
  simp [loadCounter, h j hj]

theorem Memory.wf_loadBuf (n : Nat) (cells : List Host.Cell) : Memory.wf (loadBuf n cells) = true := by
  induction cells with
  | nil => rfl
  | cons c cells ih =>
    obtain ⟨a, b⟩ := c
    simp only [loadBuf]
    split
    · exact Memory.wf_writeByte a b ih
    · exact ih

theorem Memory.below_loadBuf (n : Nat) (cells : List Host.Cell) : Memory.below n (loadBuf n cells) = true := by
  induction cells with
  | nil => rfl
  | cons c cells ih =>
    obtain ⟨a, b⟩ := c
    simp only [loadBuf]
    split
    · rename_i ha
      exact Memory.below_writeByte ih ha
    · exact ih

end Sys2Proof.Machine
end

