-- ==== Sys2Proof/Laws/Engine.lean ====
section
/-! SUPPORT. What the completion step does: races, the loops of KGEN and XAPPLY, and the shared end of every command. -/

namespace Sys2Proof.Machine

/-! ### Races -/

theorem State.wf_settleRace (sp : Span) {s : State} (h : Memory.wf s.buf = true) :
    Memory.wf (s.settleRace sp).buf = true := by
  unfold State.settleRace
  split
  · exact Memory.wf_fillSpan _ _ h
  · exact h

theorem State.below_settleRace {n : Nat} {sp : Span} {s : State} (h : Memory.below n s.buf = true)
    (hs : sp.start + sp.len ≤ n) : Memory.below n (s.settleRace sp).buf = true := by
  unfold State.settleRace
  split
  · exact Memory.below_fillSpan _ _ h hs
  · exact h

/-- A race reaches the bytes of the span only. -/
theorem State.readByte_settleRace_outside {sp : Span} {s : State} {b : Nat} (h : Memory.wf s.buf = true)
    (hb : sp.contains b = false) : readByte (s.settleRace sp).buf b = readByte s.buf b := by
  unfold State.settleRace
  split
  · exact readByte_fillSpan_outside _ h hb
  · rfl

/-- Without a race there is nothing to settle. -/
theorem State.settleRace_quiet (sp : Span) {s : State} (h : s.raced = false) : s.settleRace sp = s := by
  simp [State.settleRace, h]

/-! ### XAPPLY -/

theorem wf_xorLoop (src key k i : Nat) {m : Memory} (h : Memory.wf m = true) :
    Memory.wf (xorLoop src key k i m) = true := by
  induction k generalizing i m with
  | zero => exact h
  | succ k ih => exact ih (i + 1) (Memory.wf_writeByte _ _ h)

theorem below_xorLoop {src key k i n : Nat} {m : Memory} (h : Memory.below n m = true) (hs : src + i + k ≤ n) :
    Memory.below n (xorLoop src key k i m) = true := by
  induction k generalizing i m with
  | zero => exact h
  | succ k ih => exact ih (Memory.below_writeByte h (by omega)) (by omega)

/-- The lanes write the bytes from `src + i` to `src + i + k` and no others. -/
theorem readByte_xorLoop_outside {src key k i b : Nat} {m : Memory} (h : Memory.wf m = true)
    (hb : b < src + i ∨ src + i + k ≤ b) : readByte (xorLoop src key k i m) b = readByte m b := by
  induction k generalizing i m with
  | zero => rfl
  | succ k ih =>
    rw [xorLoop, ih (Memory.wf_writeByte _ _ h) (by omega), readByte_writeByte _ _ _ h,
      if_neg (by omega)]

/-- Where source and key lanes do not meet, lane j of the source becomes its XOR with lane j of the key. -/
theorem readByte_xorLoop_lane {src key k i j : Nat} {m : Memory} (h : Memory.wf m = true)
    (hj : i ≤ j ∧ j < i + k) (hd : src + i + k ≤ key + i ∨ key + i + k ≤ src + i) :
    readByte (xorLoop src key k i m) (src + j) = readByte m (src + j) ^^^ readByte m (key + j) := by
  induction k generalizing i m with
  | zero => omega
  | succ k ih =>
    rw [xorLoop]
    by_cases hij : j = i
    · subst hij
      rw [readByte_xorLoop_outside (Memory.wf_writeByte _ _ h) (by omega), readByte_writeByte _ _ _ h, if_pos rfl]
    · rw [ih (Memory.wf_writeByte _ _ h) (by omega) (by omega), readByte_writeByte _ _ _ h,
        readByte_writeByte _ _ _ h, if_neg (by omega), if_neg (by omega)]

/-! ### KGEN -/

section kgenFields

variable (outAddr k w : Nat) (a : KgenArgs) (s : State)

@[simp] theorem kgenLoop_memSize : (kgenLoop outAddr k w s).memSize = s.memSize := by
  induction k generalizing w s with
  | zero => rfl
  | succ k ih => rw [kgenLoop, ih]

@[simp] theorem kgenLoop_args : (kgenLoop outAddr k w s).args = s.args := by
  induction k generalizing w s with
  | zero => rfl
  | succ k ih => rw [kgenLoop, ih]

@[simp] theorem kgenLoop_result : (kgenLoop outAddr k w s).result = s.result := by
  induction k generalizing w s with
  | zero => rfl
  | succ k ih => rw [kgenLoop, ih]

@[simp] theorem kgenLoop_phase : (kgenLoop outAddr k w s).phase = s.phase := by
  induction k generalizing w s with
  | zero => rfl
  | succ k ih => rw [kgenLoop, ih]

@[simp] theorem kgenLoop_done : (kgenLoop outAddr k w s).done = s.done := by
  induction k generalizing w s with
  | zero => rfl
  | succ k ih => rw [kgenLoop, ih]

@[simp] theorem kgenLoop_dropped : (kgenLoop outAddr k w s).dropped = s.dropped := by
  induction k generalizing w s with
  | zero => rfl
  | succ k ih => rw [kgenLoop, ih]

@[simp] theorem kgenLoop_err : (kgenLoop outAddr k w s).err = s.err := by
  induction k generalizing w s with
  | zero => rfl
  | succ k ih => rw [kgenLoop, ih]

@[simp] theorem kgenLoop_latch : (kgenLoop outAddr k w s).latch = s.latch := by
  induction k generalizing w s with
  | zero => rfl
  | succ k ih => rw [kgenLoop, ih]

@[simp] theorem kgenLoop_inputs : (kgenLoop outAddr k w s).inputs = s.inputs := by
  induction k generalizing w s with
  | zero => rfl
  | succ k ih => rw [kgenLoop, ih]

@[simp] theorem kgenLoop_transcript : (kgenLoop outAddr k w s).transcript = s.transcript := by
  induction k generalizing w s with
  | zero => rfl
  | succ k ih => rw [kgenLoop, ih]

@[simp] theorem kgenLoop_delay : (kgenLoop outAddr k w s).delay = s.delay := by
  induction k generalizing w s with
  | zero => rfl
  | succ k ih => rw [kgenLoop, ih]

@[simp] theorem kgenLoop_delays : (kgenLoop outAddr k w s).delays = s.delays := by
  induction k generalizing w s with
  | zero => rfl
  | succ k ih => rw [kgenLoop, ih]

@[simp] theorem kgenLoop_raced : (kgenLoop outAddr k w s).raced = s.raced := by
  induction k generalizing w s with
  | zero => rfl
  | succ k ih => rw [kgenLoop, ih]

@[simp] theorem kgenLoop_resetHold : (kgenLoop outAddr k w s).resetHold = s.resetHold := by
  induction k generalizing w s with
  | zero => rfl
  | succ k ih => rw [kgenLoop, ih]

@[simp] theorem kgenLoop_draws : (kgenLoop outAddr k w s).draws = s.draws := by
  induction k generalizing w s with
  | zero => rfl
  | succ k ih => rw [kgenLoop, ih]

@[simp] theorem kgenBody_memSize : (kgenBody a s).memSize = s.memSize := by rw [kgenBody, kgenLoop_memSize, kgenStart_memSize]

@[simp] theorem kgenBody_args : (kgenBody a s).args = s.args := by rw [kgenBody, kgenLoop_args, kgenStart_args]

@[simp] theorem kgenBody_result : (kgenBody a s).result = s.result := by rw [kgenBody, kgenLoop_result, kgenStart_result]

@[simp] theorem kgenBody_phase : (kgenBody a s).phase = s.phase := by rw [kgenBody, kgenLoop_phase, kgenStart_phase]

@[simp] theorem kgenBody_done : (kgenBody a s).done = s.done := by rw [kgenBody, kgenLoop_done, kgenStart_done]

@[simp] theorem kgenBody_dropped : (kgenBody a s).dropped = s.dropped := by rw [kgenBody, kgenLoop_dropped, kgenStart_dropped]

@[simp] theorem kgenBody_err : (kgenBody a s).err = s.err := by rw [kgenBody, kgenLoop_err, kgenStart_err]

@[simp] theorem kgenBody_latch : (kgenBody a s).latch = s.latch := by rw [kgenBody, kgenLoop_latch, kgenStart_latch]

@[simp] theorem kgenBody_inputs : (kgenBody a s).inputs = s.inputs := by rw [kgenBody, kgenLoop_inputs, kgenStart_inputs]

@[simp] theorem kgenBody_transcript : (kgenBody a s).transcript = s.transcript := by rw [kgenBody, kgenLoop_transcript, kgenStart_transcript]

@[simp] theorem kgenBody_delay : (kgenBody a s).delay = s.delay := by rw [kgenBody, kgenLoop_delay, kgenStart_delay]

@[simp] theorem kgenBody_delays : (kgenBody a s).delays = s.delays := by rw [kgenBody, kgenLoop_delays, kgenStart_delays]

@[simp] theorem kgenBody_raced : (kgenBody a s).raced = s.raced := by rw [kgenBody, kgenLoop_raced, kgenStart_raced]

@[simp] theorem kgenBody_resetHold : (kgenBody a s).resetHold = s.resetHold := by rw [kgenBody, kgenLoop_resetHold, kgenStart_resetHold]

@[simp] theorem kgenBody_draws : (kgenBody a s).draws = s.draws := by rw [kgenBody, kgenLoop_draws, kgenStart_draws]

end kgenFields

theorem wf_kgenLoop (outAddr k w : Nat) {s : State} (h : Memory.wf s.buf = true) :
    Memory.wf (kgenLoop outAddr k w s).buf = true := by
  induction k generalizing w s with
  | zero => exact h
  | succ k ih => exact ih (w + 16) (Memory.wf_storeCounter _ _ h)

theorem below_kgenLoop {outAddr k w n : Nat} {s : State} (h : Memory.below n s.buf = true)
    (hs : outAddr + w + 16 * k ≤ n) : Memory.below n (kgenLoop outAddr k w s).buf = true := by
  induction k generalizing w s with
  | zero => exact h
  | succ k ih => exact ih (Memory.below_storeCounter _ _ h (by omega)) (by omega)

/-- The strides write the bytes from `outAddr + w` on, 16 for each stride, and no others. -/
theorem readByte_kgenLoop_outside {outAddr k w b : Nat} {s : State} (h : Memory.wf s.buf = true)
    (hb : b < outAddr + w ∨ outAddr + w + 16 * k ≤ b) :
    readByte (kgenLoop outAddr k w s).buf b = readByte s.buf b := by
  induction k generalizing w s with
  | zero => rfl
  | succ k ih =>
    rw [kgenLoop, ih (Memory.wf_storeCounter _ _ h) (by omega),
      readByte_storeCounter_outside _ h (by omega)]

/-- Stride j holds CTR as it was after j increments. -/
theorem loadCounter_kgenLoop {outAddr k w j : Nat} {s : State} (h : Memory.wf s.buf = true) (hj : j < k) :
    loadCounter (kgenLoop outAddr k w s).buf (outAddr + w + 16 * j) = (fun v => counterAdd v 1)^[j] s.ctr := by
  induction k generalizing w j s with
  | zero => omega
  | succ k ih =>
    rw [kgenLoop]
    cases j with
    | zero =>
      rw [loadCounter_congr (m' := storeCounter s.buf (outAddr + w) s.ctr) fun i hi => ?_]
      · simpa using loadCounter_storeCounter (outAddr + w) s.ctr h
      · exact readByte_kgenLoop_outside (Memory.wf_storeCounter _ _ h) (by omega)
    | succ j =>
      rw [show outAddr + w + 16 * (j + 1) = outAddr + (w + 16) + 16 * j by omega,
        ih (Memory.wf_storeCounter _ _ h) (by omega)]
      simp

/-! ### The shared end of every command -/

section conclude

variable (err : Option CmdError) (sp : Span) (body : State → State) (s : State)

@[simp] theorem State.conclude_phase : (s.conclude err sp body).phase = .idle := by cases err <;> rfl

@[simp] theorem State.conclude_done : (s.conclude err sp body).done = true := by cases err <;> rfl

@[simp] theorem State.conclude_raced : (s.conclude err sp body).raced = false := by cases err <;> rfl

@[simp] theorem State.conclude_delay : (s.conclude err sp body).delay = 0 := by cases err <;> rfl

/-- ERR takes the code of the raised error, and 0x00 if there is none. -/
@[simp] theorem State.conclude_err : (s.conclude err sp body).err = (err.map CmdError.code).getD .ok := by
  cases err <;> rfl

/-- A command that raises an error does nothing but end. -/
theorem State.conclude_some (e : CmdError) : s.conclude (some e) sp body = s.raiseError e := rfl

/-- A command that raises none has the effect of its body. -/
theorem State.conclude_none : s.conclude none sp body = ((body s).settleRace sp).endCommand .ok := rfl

/-- A field that the body keeps is kept. -/
theorem State.conclude_memSize (h : (body s).memSize = s.memSize) : (s.conclude err sp body).memSize = s.memSize := by
  cases err with
  | none => rw [State.conclude_none, State.endCommand_memSize, State.settleRace_memSize, h]
  | some e => rfl

/-- A field that the body keeps is kept. -/
theorem State.conclude_args (h : (body s).args = s.args) : (s.conclude err sp body).args = s.args := by
  cases err with
  | none => rw [State.conclude_none, State.endCommand_args, State.settleRace_args, h]
  | some e => rfl

/-- A field that the body keeps is kept. -/
theorem State.conclude_dropped (h : (body s).dropped = s.dropped) : (s.conclude err sp body).dropped = s.dropped := by
  cases err with
  | none => rw [State.conclude_none, State.endCommand_dropped, State.settleRace_dropped, h]
  | some e => rfl

/-- A field that the body keeps is kept. -/
theorem State.conclude_inputs (h : (body s).inputs = s.inputs) : (s.conclude err sp body).inputs = s.inputs := by
  cases err with
  | none => rw [State.conclude_none, State.endCommand_inputs, State.settleRace_inputs, h]
  | some e => rfl

/-- A field that the body keeps is kept. -/
theorem State.conclude_transcript (h : (body s).transcript = s.transcript) : (s.conclude err sp body).transcript = s.transcript := by
  cases err with
  | none => rw [State.conclude_none, State.endCommand_transcript, State.settleRace_transcript, h]
  | some e => rfl

/-- A field that the body keeps is kept. -/
theorem State.conclude_delays (h : (body s).delays = s.delays) : (s.conclude err sp body).delays = s.delays := by
  cases err with
  | none => rw [State.conclude_none, State.endCommand_delays, State.settleRace_delays, h]
  | some e => rfl

/-- A field that the body keeps is kept. -/
theorem State.conclude_resetHold (h : (body s).resetHold = s.resetHold) : (s.conclude err sp body).resetHold = s.resetHold := by
  cases err with
  | none => rw [State.conclude_none, State.endCommand_resetHold, State.settleRace_resetHold, h]
  | some e => rfl

/-- A field that the body keeps is kept. -/
theorem State.conclude_result (h : (body s).result = s.result) : (s.conclude err sp body).result = s.result := by
  cases err with
  | none => rw [State.conclude_none, State.endCommand_result, State.settleRace_result, h]
  | some e => rfl

/-- A field that the body keeps is kept. -/
theorem State.conclude_ctr (h : (body s).ctr = s.ctr) : (s.conclude err sp body).ctr = s.ctr := by
  cases err with
  | none => rw [State.conclude_none, State.endCommand_ctr, State.settleRace_ctr, h]
  | some e => rfl

/-- The canonical form of BUF is kept if the body keeps it. -/
theorem State.wf_conclude (h : Memory.wf s.buf = true) (hb : Memory.wf (body s).buf = true) :
    Memory.wf (s.conclude err sp body).buf = true := by
  cases err with
  | none => exact State.wf_settleRace sp hb
  | some e => exact h

/-- No byte outside the span changes if the body changes none. -/
theorem State.readByte_conclude_outside {b : Nat} (hw : Memory.wf (body s).buf = true)
    (hb : readByte (body s).buf b = readByte s.buf b) (hs : err = none → sp.contains b = false) :
    readByte (s.conclude err sp body).buf b = readByte s.buf b := by
  cases err with
  | none => exact (State.readByte_settleRace_outside hw (hs rfl)).trans hb
  | some e => rfl

end conclude

end Sys2Proof.Machine
end

