-- ==== Sys2Proof/Laws/Numbers.lean ====
section
/-! SUPPORT. Big-endian numbers, signed views and the order of checks. -/

namespace Sys2Proof.Machine

/-! ### Big-endian numbers -/

@[simp] theorem length_bytesBE (n v : Nat) : (bytesBE n v).length = n := by
  induction n with
  | zero => rfl
  | succ n ih => simp [bytesBE, ih]

theorem be_append (l r : List Byte) : be (l ++ r) = be l * 256 ^ r.length + be r := by
  induction l with
  | nil => simp [be]
  | cons b l ih => simp only [List.cons_append, be, ih, List.length_append, pow_add]; ring

/-- A sequence of n bytes is a number below 256^n. -/
theorem be_lt (l : List Byte) : be l < 256 ^ l.length := by
  induction l with
  | nil => simp [be]
  | cons b l ih =>
    have hb : b.toNat + 1 ≤ 256 := b.isLt
    calc be (b :: l) = b.toNat * 256 ^ l.length + be l := rfl
      _ < b.toNat * 256 ^ l.length + 256 ^ l.length := by omega
      _ = (b.toNat + 1) * 256 ^ l.length := by ring
      _ ≤ 256 * 256 ^ l.length := Nat.mul_le_mul_right _ hb
      _ = 256 ^ (b :: l).length := by rw [List.length_cons]; ring

/-- `be` undoes `bytesBE`, which keeps the low n bytes of a number. -/
theorem be_bytesBE (n v : Nat) : be (bytesBE n v) = v % 256 ^ n := by
  induction n with
  | zero => simp [bytesBE, be, Nat.mod_one]
  | succ n ih =>
    have : (BitVec.ofNat 8 (v / 256 ^ n)).toNat = v / 256 ^ n % 256 := by simp
    rw [bytesBE, be, ih, length_bytesBE, this, pow_succ, Nat.mod_mul]
    ring

/-- Sequences of one length with one value are equal. -/
theorem be_injective {l r : List Byte} (hl : l.length = r.length) (h : be l = be r) : l = r := by
  induction l generalizing r with
  | nil => exact (List.length_eq_zero_iff.1 hl.symm).symm
  | cons b l ih =>
    cases r with
    | nil => simp at hl
    | cons d r =>
      have hlen : l.length = r.length := by simpa using hl
      simp only [be, hlen] at h
      have h1 := be_lt l
      have h2 := be_lt r
      rw [hlen] at h1
      have hbd : b.toNat = d.toNat := by
        have e1 : (b.toNat * 256 ^ r.length + be l) / 256 ^ r.length = b.toNat := by
          rw [Nat.add_comm, Nat.add_mul_div_right _ _ (by positivity), Nat.div_eq_of_lt h1, Nat.zero_add]
        have e2 : (d.toNat * 256 ^ r.length + be r) / 256 ^ r.length = d.toNat := by
          rw [Nat.add_comm, Nat.add_mul_div_right _ _ (by positivity), Nat.div_eq_of_lt h2, Nat.zero_add]
        rw [← e1, ← e2, h]
      rw [BitVec.eq_of_toNat_eq hbd, ih hlen (by rw [hbd] at h; omega)]

/-- The bytes of the value of a sequence are the sequence. -/
theorem bytesBE_be (l : List Byte) : bytesBE l.length (be l) = l :=
  be_injective (by simp) (by rw [be_bytesBE, Nat.mod_eq_of_lt (be_lt l)])

/-! ### Signed views -/

/-- The signed view is the two's-complement value (R13). -/
theorem s64_eq_toInt (v : Word) : s64 v = v.toInt := by
  have h : v.getLsbD 63 = v.msb := by simp [BitVec.msb, BitVec.getMsbD]
  unfold s64
  rw [h, BitVec.toInt_eq_msb_cond]
  rfl

theorem s64_lt (v : Word) : s64 v < 2 ^ 63 := by
  rw [s64_eq_toInt]; exact_mod_cast BitVec.toInt_lt (x := v)

theorem le_s64 (v : Word) : -2 ^ 63 ≤ s64 v := by
  rw [s64_eq_toInt]; exact_mod_cast BitVec.le_toInt (x := v)

/-! ### The order of checks -/

@[simp] theorem firstError_nil : firstError [] = none := rfl

theorem firstError_cons (fails : Bool) (e : CmdError) (rest : List (Bool × CmdError)) :
    firstError ((fails, e) :: rest) = if fails then some e else firstError rest := rfl

/-- No error is raised exactly when no check fails. -/
theorem firstError_eq_none (checks : List (Bool × CmdError)) :
    firstError checks = none ↔ ∀ c ∈ checks, c.1 = false := by
  induction checks with
  | nil => simp
  | cons c checks ih =>
    obtain ⟨f, e⟩ := c
    cases f <;> simp [firstError_cons, ih]

/-- A command that fails a check writes no byte (R45, R46). -/
theorem writeSpan_of_error {memSize : Nat} {x : Vector Word 6} {i : Instr} {e : CmdError}
    (h : checkError memSize x i = some e) : writeSpan memSize x i = Span.empty := by
  simp [writeSpan, h]

/-- A command that fails a check reads no byte (R106). -/
theorem readSpans_of_error {memSize : Nat} {x : Vector Word 6} {i : Instr} {e : CmdError}
    (h : checkError memSize x i = some e) : readSpans memSize x i = [] := by
  simp [readSpans, h]

/-- The write footprint of a command that passes its checks (R45). -/
theorem writeSpan_of_ok {memSize : Nat} {x : Vector Word 6} {i : Instr} (h : checkError memSize x i = none) :
    writeSpan memSize x i = match (generalizing := false) i with
      | .cadd => (caddArgs x).span
      | .kgen => (kgenArgs x).span
      | .xapply => (xapplyArgs x).span
      | .nop | .nm16 | .hgen | .illegal _ => Span.empty := by
  unfold writeSpan
  rw [h]
  cases i <;> rfl

/-- The read footprint of a command that passes its checks (R45). -/
theorem readSpans_of_ok {memSize : Nat} {x : Vector Word 6} {i : Instr} (h : checkError memSize x i = none) :
    readSpans memSize x i = match (generalizing := false) i with
      | .cadd => [(caddArgs x).span]
      | .kgen => [⟨(kgenArgs x).seedAddr, 16⟩]
      | .xapply => [⟨(xapplyArgs x).keyStart, (xapplyArgs x).length.toNat⟩, (xapplyArgs x).span]
      | .nop | .nm16 | .hgen | .illegal _ => [] := by
  unfold readSpans
  rw [h]
  cases i <;> rfl

/-- CADD passes its check (R72). -/
theorem caddError_eq_none (memSize : Nat) (a : CaddArgs) :
    caddError memSize a = none ↔ a.ctrAddr + 16 ≤ memSize := by
  rw [caddError, firstError_eq_none]
  simp [inBuf]

/-- KGEN passes its checks (R75). -/
theorem kgenError_eq_none (memSize : Nat) (a : KgenArgs) :
    kgenError memSize a = none ↔
      a.seedLen = 16 ∧ 0 ≤ a.size ∧ 0 ≤ a.offset ∧ a.seedAddr + 16 ≤ memSize ∧ a.outAddr + a.outLen ≤ memSize ∧
        nm16 a.size ≤ a.outLen := by
  rw [kgenError, firstError_eq_none]
  simp [inBuf]

/-- XAPPLY passes its checks (R86). -/
theorem xapplyError_eq_none (memSize : Nat) (a : XapplyArgs) :
    xapplyError memSize a = none ↔
      0 ≤ a.length ∧ 0 ≤ a.keyOffset ∧ a.srcAddr + a.srcLen ≤ memSize ∧ a.keyAddr + a.keyLen ≤ memSize ∧
        a.length ≤ a.srcLen ∧ a.keyOffset + a.length ≤ a.keyLen ∧ xapplyOverlap a = false := by
  rw [xapplyError, firstError_eq_none]
  simp [inBuf]

/-- The checks K1 to K6 as a chain of conditions. -/
theorem kgenError_eq (memSize : Nat) (a : KgenArgs) :
    kgenError memSize a =
      if a.seedLen ≠ 16 then some .invalidArgument
      else if a.size < 0 then some .invalidArgument
      else if a.offset < 0 then some .invalidArgument
      else if memSize < a.seedAddr + 16 then some .outOfBounds
      else if memSize < a.outAddr + a.outLen then some .outOfBounds
      else if (a.outLen : Int) < nm16 a.size then some .outOfBounds
      else none := by
  simp only [kgenError, firstError_cons, firstError_nil, inBuf, Bool.not_eq_true', decide_eq_true_eq,
    decide_eq_false_iff_not, Nat.not_le]

/-- Check X7 as a condition. -/
theorem xapplyOverlap_iff (a : XapplyArgs) :
    xapplyOverlap a = true ↔
      0 < a.length ∧ (a.srcAddr : Int) < a.keyAddr + a.keyOffset + a.length ∧
        (a.keyAddr : Int) + a.keyOffset < a.srcAddr + a.length := by
  simp only [xapplyOverlap, Bool.and_eq_true, decide_eq_true_eq, and_assoc]

/-- The checks X1 to X7 as a chain of conditions. -/
theorem xapplyError_eq (memSize : Nat) (a : XapplyArgs) :
    xapplyError memSize a =
      if a.length < 0 then some .invalidArgument
      else if a.keyOffset < 0 then some .invalidArgument
      else if memSize < a.srcAddr + a.srcLen then some .outOfBounds
      else if memSize < a.keyAddr + a.keyLen then some .outOfBounds
      else if (a.srcLen : Int) < a.length then some .outOfBounds
      else if (a.keyLen : Int) < a.keyOffset + a.length then some .outOfBounds
      else if xapplyOverlap a = true then some .invalidArgument
      else none := by
  simp only [xapplyError, firstError_cons, firstError_nil, inBuf, Bool.not_eq_true', decide_eq_true_eq,
    decide_eq_false_iff_not, Nat.not_le]

/-- A length that is not negative rounds up to whole blocks. -/
theorem sixteen_mul_blocks {n : Int} (h : 0 ≤ n) : (16 * blocks n : Int) = nm16 n := by
  unfold blocks nm16
  omega

theorem nm16_nonneg {n : Int} (h : 0 ≤ n) : 0 ≤ nm16 n := by
  unfold nm16
  omega

theorem Span.contains_iff (sp : Span) (a : Nat) :
    sp.contains a = true ↔ sp.start ≤ a ∧ a < sp.start + sp.len := by simp [Span.contains]

theorem Span.contains_false_iff (sp : Span) (a : Nat) :
    sp.contains a = false ↔ a < sp.start ∨ sp.start + sp.len ≤ a := by
  simp [Span.contains]
  omega

/-- A sequence read of BUF meets a span exactly when one of its bytes is in it. -/
theorem Span.meets_iff (sp : Span) (a n : Nat) :
    sp.meets a n = true ↔ ∃ b, a ≤ b ∧ b < a + n ∧ sp.contains b = true := by
  simp only [Span.meets, List.any_eq_true, List.mem_range]
  constructor
  · rintro ⟨j, hj, h⟩
    exact ⟨a + j, by omega, by omega, h⟩
  · rintro ⟨b, h1, h2, h⟩
    exact ⟨b - a, by omega, by rwa [show a + (b - a) = b by omega]⟩

end Sys2Proof.Machine
end

