-- ==== Sys2Proof/Laws/Host.lean ====
section
/-! SUPPORT. Which agent moves, and what a host step does. -/

namespace Sys2Proof.Machine

/-! ### Whose turn it is -/

theorem State.busy_iff (s : State) : s.busy = true ↔ s.phase = .busy := by simp [State.busy]

theorem State.busy_false_iff (s : State) : s.busy = false ↔ s.phase = .idle := by
  cases h : s.phase <;> simp [State.busy, h]

theorem State.engineTurn_iff (s : State) :
    s.engineTurn = true ↔ s.phase = .busy ∧ (s.delay = 0 ∨ s.inputs = []) := by
  simp [State.engineTurn, State.busy_iff]

/-- On the engine's turn a step is the completion step. -/
theorem step_engine {s : State} (h : s.engineTurn = true) : step s = exec s.latched s := by simp [step, h]

/-- Otherwise it is a host step. -/
theorem step_host {s : State} (h : s.engineTurn = false) : step s = .next (hostStep s) := by simp [step, h]

/-- An idle engine does not move. -/
theorem State.engineTurn_idle {s : State} (h : s.phase = .idle) : s.engineTurn = false := by
  rw [← Bool.not_eq_true, State.engineTurn_iff]
  simp [h]

/-- A busy engine waits while its delay runs and the host has something to do. -/
theorem State.engineTurn_waits {s : State} (hd : s.delay ≠ 0) (hi : s.inputs ≠ []) : s.engineTurn = false := by
  rw [← Bool.not_eq_true, State.engineTurn_iff]
  simp [hd, hi]

theorem hostStep_nil {s : State} (h : s.inputs = []) : hostStep s = s := by simp [hostStep, h]

theorem hostStep_cons {s : State} {inp : Input} {rest : List Input} (h : s.inputs = inp :: rest) :
    hostStep s = hostTakes inp rest s := by simp [hostStep, h]

/-- On the host's turn a step delivers the first input. -/
theorem step_takes {s : State} {inp : Input} {rest : List Input} (hi : s.inputs = inp :: rest)
    (ht : s.engineTurn = false) : step s = .next (hostTakes inp rest s) := by
  rw [step_host ht, hostStep_cons hi]

/-- A run of one step more begins with the step, for every machine. -/
theorem run_succ_of_step (M : Host.Core) {s t : M.State} (n : Nat) (h : M.step s = .next t) :
    M.run (n + 1) s = M.run n t := by
  simp [Host.Core.run, h]

/-- A run of CORE of one step more begins with the step. -/
theorem run_succ {s t : State} (n : Nat) (h : step s = .next t) :
    Host.Core.run core (n + 1) s = Host.Core.run core n t := run_succ_of_step core n h

/-! ### The parts of a host step -/

/-- With reset released an input other than WAIT is delivered once and leaves the inputs. -/
theorem hostTakes_served {inp : Input} {s : State} (rest : List Input) (hr : s.resetHold = 0) (hw : inp ≠ .wait) :
    hostTakes inp rest s =
      { (transact inp s.tick).1 with
        inputs := rest, transcript := (inp, (transact inp s.tick).2) :: s.transcript } := by
  simp [hostTakes, deliver, State.ignores, State.keepsWaiting, hr, hw]

theorem State.issue_idle {s : State} (w : Word) (h : s.phase = .idle) : s.issue w = (s.latchCommand w).drawDelay := by
  simp [State.issue, h]

theorem State.issue_busy {s : State} (w : Word) (h : s.phase = .busy) : s.issue w = s.flagsDropped := by
  simp [State.issue, h]

theorem State.abort_idle {s : State} (h : s.phase = .idle) : s.abort = s := by simp [State.abort, h]

/-- A served offset names a register or a reserved slot. -/
theorem regAt_arg (i : Fin 6) : regAt (0x20 + 8 * i) = .arg i := by
  revert i; decide

theorem regAt_reserved {off : Nat} (h : off = 0x18 ∨ 0x50 ≤ off) : regAt off = .reserved := by
  unfold regAt
  repeat rw [if_neg (by omega)]

theorem regPortServes_iff (width off : Nat) :
    regPortServes width off = true ↔ width = 8 ∧ off % 8 = 0 ∧ off < 0x100 := by simp [regPortServes]

theorem bufPortServes_iff (memSize width addr : Nat) :
    bufPortServes memSize width addr = true ↔
      (width = 1 ∨ width = 2 ∨ width = 4 ∨ width = 8) ∧ addr % width = 0 ∧ addr + width ≤ memSize := by
  simp [bufPortServes]

/-- An idle engine has no footprint. -/
theorem State.readRaces_idle {s : State} (h : s.phase = .idle) (a n : Nat) : s.readRaces a n = false := by
  simp [State.readRaces, (s.busy_false_iff).2 h]

theorem State.writeRaces_idle {s : State} (h : s.phase = .idle) (a n : Nat) : s.writeRaces a n = false := by
  simp [State.writeRaces, (s.busy_false_iff).2 h]

/-! ### What every input keeps -/

@[simp] theorem State.issue_memSize (w : Word) (s : State) : (s.issue w).memSize = s.memSize := by
  unfold State.issue; split <;> simp

@[simp] theorem writeReg_memSize (r : RegName) (v : Word) (s : State) : (writeReg r v s).memSize = s.memSize := by
  cases r <;> simp [writeReg]

/-- No input changes `MEM_SIZE`. -/
@[simp] theorem deliver_memSize (inp : Input) (s : State) : (deliver inp s).1.memSize = s.memSize := by
  unfold deliver
  split
  · rfl
  · cases inp <;> simp only [transact] <;> (try split) <;>
      simp [State.resetEvent, State.powerOnEvent]

/-- The fields of a host step that are not the delivered input's. -/
theorem hostTakes_eq (inp : Input) (rest : List Input) (s : State) :
    hostTakes inp rest s =
      { (deliver inp s.tick).1 with
        inputs := (hostTakes inp rest s).inputs, transcript := (hostTakes inp rest s).transcript } := rfl

end Sys2Proof.Machine
end

