-- ==== Sys2Proof/Laws/PerInstr.lean ====
section
/-! SUPPORT. Facts about every instruction as syntax, one lemma per constructor. -/

namespace Sys2Proof.Laws.OpcodeRow

/-- The word of a well-formed instruction lies in the instruction's own row of the opcode map (R57): RSV 0 and its
OPC value for a command, and neither for an illegal word. -/
def Statement : Instr → Prop
  | .nop => rsvOf (encode .nop) = 0 ∧ opcOf (encode .nop) = 0x00
  | .cadd => rsvOf (encode .cadd) = 0 ∧ opcOf (encode .cadd) = 0x01
  | .kgen => rsvOf (encode .kgen) = 0 ∧ opcOf (encode .kgen) = 0x02
  | .xapply => rsvOf (encode .xapply) = 0 ∧ opcOf (encode .xapply) = 0x03
  | .nm16 => rsvOf (encode .nm16) = 0 ∧ opcOf (encode .nm16) = 0x04
  | .hgen => rsvOf (encode .hgen) = 0 ∧ opcOf (encode .hgen) = 0x05
  | .illegal w => (Instr.illegal w).wf = true → rsvOf (encode (.illegal w)) ≠ 0 ∨ 6 ≤ (opcOf (encode (.illegal w))).toNat

theorem nop : Statement .nop := by unfold Statement; decide

theorem cadd : Statement .cadd := by unfold Statement; decide

theorem kgen : Statement .kgen := by unfold Statement; decide

theorem xapply : Statement .xapply := by unfold Statement; decide

theorem nm16 : Statement .nm16 := by unfold Statement; decide

theorem hgen : Statement .hgen := by unfold Statement; decide

theorem illegal (w : Word) : Statement (.illegal w) := fun h => of_decide_eq_true h

end Sys2Proof.Laws.OpcodeRow
end

