-- ==== Sys2Proof/Tests/Slice0.lean ====
section
/-! SUPPORT. Tests: expected values come from the spec (95_test_vectors.md names each vector) or are worked out by
hand from a rule; none was copied from the model.  At the end, a state and operands that meet the hypotheses of
each statement of Certificates/Slice0/Obligations.lean. -/

namespace Sys2Proof.Tests

open Sys2Proof Sys2Proof.Machine

/-! ### Small states -/

/-- An idle machine with 0x100 bytes of BUF, the size all vectors use. -/
def idleAt (buf : Memory) : State := State.powerOn 0x100 buf

/-- The same with the command word `w` accepted on the arguments `x`, due at once. -/
def busyAt (w : Word) (x : Vector Word 6) (buf : Memory) : State :=
  { idleAt buf with args := x, phase := .busy, latch := ⟨opcOf w, rsvOf w, x⟩ }

/-- The machine with these inputs to come. -/
def fed (s : State) (inputs : List Input) : State := { s with inputs := inputs }

/-- The same busy machine, whose completion is three host steps away. -/
def later (s : State) : State := { s with delay := 3 }

/-- The state after one step. -/
def stepped (s : State) : State :=
  match step s with
  | .next t => t
  | .fault _ => s
  | .refused _ => s

/-- The answer to the newest input. -/
def lastReply (s : State) : Option Reply := s.transcript.head?.map Prod.snd

/-- What one step of a due command leaves: STATUS, RESULT and n bytes of BUF from `a`. -/
def outcome (w : Word) (x : Vector Word 6) (buf : Memory) (a n : Nat) : Word × Word × List Byte :=
  ((stepped (busyAt w x buf)).status, (stepped (busyAt w x buf)).result, readBytes (stepped (busyAt w x buf)).buf a n)

/-- What one host step answers. -/
def answer (s : State) (inp : Input) : Option Reply := lastReply (stepped (fed s [inp]))

def noArgs : Vector Word 6 := #v[0, 0, 0, 0, 0, 0]

/-! ### Well-formedness -/

theorem test_wf_refuses_illegal_of_a_command_word :
    (Instr.illegal 0).wf = false ∧ (Instr.illegal 5).wf = false ∧ (Instr.illegal 6).wf = true ∧
      (Instr.illegal 0x100).wf = true := by decide

theorem test_wf_refuses_wide_register_value : (Input.regWrite 4 0x08 0x100000000).wf = false := by decide

theorem test_wf_refuses_wide_buf_value :
    (Input.bufWrite 1 0 0x100).wf = false ∧ (Input.bufWrite 1 0 0xFF).wf = true := by decide

theorem test_wf_refuses_power_on_past_the_address_width :
    (Input.powerOn [(0x10000000000000000, 1)] 0).wf = false := by decide

/-! ### Decoding: words written out from the fields of R56 and the opcode map of R57 -/

theorem test_decode_nop : decode (0#56 ++ 0b00000000#8) = .nop := by decide
theorem test_decode_cadd : decode (0#56 ++ 0b00000001#8) = .cadd := by decide
theorem test_decode_kgen : decode (0#56 ++ 0b00000010#8) = .kgen := by decide
theorem test_decode_xapply : decode (0#56 ++ 0b00000011#8) = .xapply := by decide
theorem test_decode_nm16 : decode (0#56 ++ 0b00000100#8) = .nm16 := by decide
theorem test_decode_hgen : decode (0#56 ++ 0b00000101#8) = .hgen := by decide

/-- L3, L4, L5, L6. -/
theorem test_decode_illegal :
    decode 0x06 = .illegal 0x06 ∧ decode 0xFF = .illegal 0xFF ∧ decode 0x100 = .illegal 0x100 ∧
      decode 0x8000000000000001 = .illegal 0x8000000000000001 := by decide

theorem test_encode_words :
    encode .nop = 0 ∧ encode .cadd = 1 ∧ encode .kgen = 2 ∧ encode .xapply = 3 ∧ encode .nm16 = 4 ∧
      encode .hgen = 5 := by decide

theorem test_decode_table_words :
    decodeTableWord 64 0 = some .nop ∧ decodeTableWord 64 1 = some .cadd ∧ decodeTableWord 64 2 = some .kgen ∧
      decodeTableWord 64 3 = some .xapply ∧ decodeTableWord 64 4 = some .nm16 ∧ decodeTableWord 64 5 = some .hgen ∧
      decodeTableWord 64 6 = some (.illegal 6) := by decide

theorem test_decode_rejects_longer_than_a_command :
    decodeTableWord 72 1 = none ∧ (match decodeBits 72 1 with | .error e => some e | .ok _ => none) = some (.notOneWord 72) := by decide

/-- The word placed where the engine takes its next command is the one the next step runs. -/
theorem test_fetched_word_runs :
    (stepped ((idleAt []).withFetchWord 64 5)).status = 0x302 ∧
      (stepped ((idleAt []).withFetchWord 64 0)).status = 0x002 := by decide

/-! ### One step of each command -/

/-- C6: the worked example of R72. -/
theorem test_cadd_carries :
    outcome 1 #v[0x80, 0x180, 0, 0, 0, 0] [(0x8E, 0xFF), (0x8F, 0x80)] 0x80 16
      = (0x2, 0, [0, 0, 0, 0, 0, 0, 0, 0, 0, 0, 0, 0, 0, 1, 1, 0]) := by decide

/-- C12: `a + 16` does not wrap. -/
theorem test_cadd_out_of_bounds :
    outcome 1 #v[0xFFFFFFFFFFFFFFF8, 1, 0, 0, 0, 0] [(0, 7)] 0 8 = (0x202, 0, [7, 0, 0, 0, 0, 0, 0, 0]) := by decide

set_option maxRecDepth 4000 in
/-- K20: the output overwrites the seed. -/
theorem test_kgen_overwrites_its_seed :
    outcome 2 #v[0, 16, 0, 32, 32, 0] [(15, 1)] 0 32
      = (0x2, 0, [0, 0, 0, 0, 0, 0, 0, 0, 0, 0, 0, 0, 0, 0, 0, 1, 0, 0, 0, 0, 0, 0, 0, 0, 0, 0, 0, 0, 0, 0, 0, 2]) := by
  decide

/-- K19: K1 is checked before K5. -/
theorem test_kgen_error_priority :
    outcome 2 #v[0, 15, 0xF8, 16, 16, 0] [(0xF8, 9)] 0xF8 2 = (0x102, 0, [9, 0]) := by decide

/-- X12: the descriptors overlap but the used ranges do not. -/
theorem test_xapply_in_one_descriptor :
    outcome 3 #v[0x80, 2, 0x80, 4, 2, 2] [(0x80, 1), (0x81, 2), (0x82, 3), (0x83, 4)] 0x80 4
      = (0x2, 0, [2, 6, 3, 4]) := by decide

/-- X9: the source is the used key range. -/
theorem test_xapply_overlap :
    outcome 3 #v[0x81, 2, 0x80, 3, 2, 1] [(0x80, 1), (0x81, 2), (0x82, 3)] 0x80 3 = (0x102, 0, [1, 2, 3]) := by decide

/-- N8: -17 rounds to -16. -/
theorem test_nm16_rounds_up :
    outcome 4 #v[0xFFFFFFFFFFFFFFEF, 0, 0, 0, 0, 0] [] 0 0 = (0x2, 0xFFFFFFFFFFFFFFF0, []) := by decide

/-- N11: no int64 result, and RESULT keeps its value. -/
theorem test_nm16_no_result :
    ((stepped { busyAt 4 #v[0x7FFFFFFFFFFFFFF1, 0, 0, 0, 0, 0] [] with result := 0x1234 }).status,
      (stepped { busyAt 4 #v[0x7FFFFFFFFFFFFFF1, 0, 0, 0, 0, 0] [] with result := 0x1234 }).result)
      = (0x102, 0x1234) := by decide

/-- L1, L2, L3, L6. -/
theorem test_nop_hgen_illegal :
    (outcome 0 noArgs [] 0 0).1 = 0x2 ∧ (outcome 5 noArgs [] 0 0).1 = 0x302 ∧ (outcome 6 noArgs [] 0 0).1 = 0x402 ∧
      outcome 0x8000000000000001 #v[0, 1, 0, 0, 0, 0] [] 15 1 = (0x402, 0, [0]) := by decide

/-! ### Host transactions -/

/-- L9, second run: the HGEN is dropped; the NOP then completes with DROPPED set. -/
theorem test_dropped_issue :
    (stepped (fed (later (busyAt 0 noArgs [])) [.regWrite 8 0 5])).status = 0x5 ∧
      (stepped { stepped (fed (later (busyAt 0 noArgs [])) [.regWrite 8 0 5]) with delay := 0 }).status = 0x6 := by
  decide

/-- L10, L11: bit 2 of STATUS is write-1-to-clear, and no other bit is writable. -/
theorem test_status_write :
    (stepped (fed { idleAt [] with done := true, dropped := true } [.regWrite 8 8 4])).status = 0x2 ∧
      (stepped (fed (idleAt []) [.regWrite 8 8 0xFFFFFFFFFFFFFFFB])).status = 0 := by decide

/-- L13, L14, L16. -/
theorem test_register_reads :
    answer (idleAt []) (.regRead 8 0x00) = some (.value 0) ∧ answer (idleAt []) (.regRead 8 0x18) = some (.value 0) ∧
      answer (idleAt []) (.regRead 4 0x08) = some .busError ∧ answer (idleAt []) (.regRead 8 0x0C) = some .busError := by
  decide

/-- L12, L15. -/
theorem test_register_writes :
    (stepped (fed (idleAt []) [.regWrite 8 0x38 0x55])).args = #v[0, 0, 0, 0x55, 0, 0] ∧
      (stepped (fed (idleAt []) [.regWrite 8 0x10 5])).result = 0 := by decide

/-- L17, L18, L19: `BW.4 0x40, 0x41424344`. -/
theorem test_buf_port :
    (stepped (fed (idleAt []) [.bufWrite 4 0x40 0x41424344])).buf = [(0x40, 0x41), (0x41, 0x42), (0x42, 0x43), (0x43, 0x44)] ∧
      answer (idleAt [(0x42, 0x43), (0x43, 0x44)]) (.bufRead 2 0x42) = some (.value 0x4344) ∧
      answer (idleAt []) (.bufRead 2 0x41) = some .busError ∧
      answer (idleAt [(0xFF, 1)]) (.bufRead 8 0xF8) = some (.value 1) ∧
      answer (idleAt []) (.bufRead 8 0x100) = some .busError := by decide

/-- L20: the arguments are latched at acceptance. -/
theorem test_argument_write_while_busy :
    (stepped (fed (later (busyAt 1 #v[0x80, 1, 0, 0, 0, 0] [])) [.regWrite 8 0x28 2])).latch.x = #v[0x80, 1, 0, 0, 0, 0] := by
  decide

/-- L21: a reset while a KGEN is busy. -/
theorem test_reset_while_busy :
    (let t := stepped (fed (later (busyAt 2 #v[0, 16, 0x20, 32, 32, 0] [(0x1F, 7), (0x40, 8)])) [.reset 0]);
      (t.status, t.result, t.args, t.phase, readByte t.buf 0x1F)) = (0, 0, noArgs, .idle, 7) := by
  decide

/-- R121: while reset is asserted a transaction is ignored. -/
theorem test_ignored_in_reset :
    answer { idleAt [] with resetHold := 1 } (.regWrite 8 0x20 9) = some .ignored ∧
      (stepped (fed { idleAt [] with resetHold := 1 } [.regWrite 8 0x20 9])).args = noArgs := by decide

/-- Lines of P1 and of its encoding. -/
theorem test_written_forms :
    statementText (.bufWrite 4 0x40 0x41424344) = some "BW.4 0x40, 0x41424344".toList ∧
      encodedForm (.bufWrite 4 0x40 0x41424344) = some "BUF.W4 0x40 41424344".toList ∧
      encodedForm (.regWrite 8 0x48 0xE) = some "REG.W 0x48 000000000000000E".toList ∧
      encodedForm (.regRead 8 0x08) = some "REG.R 0x08".toList ∧
      statementText (.bufRead 8 0x18) = some "BR.8 0x18".toList := by decide

/-- P2: the expansion of `CADD 0x80, 1`. -/
theorem test_expansion :
    expandPseudo (.cadd 0x80 1) =
      [.regWrite 8 0x20 0x80, .regWrite 8 0x28 1, .regWrite 8 0x00 1, .wait] := by decide

/-! ### Witnesses: hypotheses that can be met -/

theorem witness_DecodeOfEncode :
    (Instr.wf .cadd = true) ∧ (Instr.illegal 0x06).wf = true ∧ (Instr.illegal 0x100).wf = true ∧
      (Instr.illegal 0xFFFFFFFFFFFFFFFF).wf = true := by decide

/-- Both ways in which the engine comes to move: no delay is left, and the host has nothing left. -/
theorem witness_StepCompletesTheLatchedCommand :
    ((fed (busyAt 1 noArgs []) [.wait]).phase = .busy ∧ (fed (busyAt 1 noArgs []) [.wait]).delay = 0) ∧
      ((later (busyAt 1 noArgs [])).phase = .busy ∧ (later (busyAt 1 noArgs [])).inputs = []) := by decide

theorem witness_IdleCmdWriteIsAccepted :
    let s := fed (idleAt []) [.regWrite 8 0x00 0xFFFFFFFFFFFFFFFF];
    s.inputs = [.regWrite 8 0x00 0xFFFFFFFFFFFFFFFF] ∧ s.phase = .idle ∧ s.resetHold = 0 := by decide

theorem witness_BusyCmdWriteIsDropped :
    let s := fed (later (busyAt 1 noArgs [])) [.regWrite 8 0x00 2, .wait];
    s.inputs = .regWrite 8 0x00 2 :: [.wait] ∧ s.phase = .busy ∧ s.delay ≠ 0 ∧ s.resetHold = 0 := by decide

theorem witness_BusyEngineKeepsItsLatch :
    let s := fed (later (busyAt 1 noArgs [])) [.regWrite 8 0x20 2];
    step s = .next (stepped s) ∧ s.phase = .busy ∧ (stepped s).phase = .busy := ⟨rfl, by decide, by decide⟩

/-- One state with DONE = 1 and one with BUSY = 1, neither about to be reset. -/
theorem witness_DoneOrBusyUntilReset :
    (let s := { idleAt [] with done := true };
      step s = .next (stepped s) ∧ ¬ s.resetNext ∧ s.done = true) ∧
    (let s := busyAt 1 noArgs [];
      step s = .next (stepped s) ∧ ¬ s.resetNext ∧ s.phase = .busy) := by
  refine ⟨⟨rfl, ?_, rfl⟩, rfl, ?_, rfl⟩
  · rintro ⟨-, inp, rest, h, -⟩
    cases h
  · rintro ⟨h, -⟩
    exact absurd h (by decide)

theorem witness_BusyEngineReachesItsCompletion :
    let s := fed (later (busyAt 1 noArgs [])) [.wait, .regWrite 8 0x00 2, .bufWrite 1 0 1];
    s.phase = .busy ∧ ∀ inp ∈ s.inputs, inp.isTransaction = true := by decide

/-- WAIT while busy and while idle. -/
theorem witness_WaitReadsStatusUntilIdle :
    (let s := fed (later (busyAt 1 noArgs [])) [.wait];
      s.inputs = [.wait] ∧ s.engineTurn = false ∧ s.resetHold = 0 ∧ s.phase = .busy) ∧
    (let s := fed (idleAt []) [.wait];
      s.inputs = [.wait] ∧ s.engineTurn = false ∧ s.resetHold = 0 ∧ s.phase = .idle) := by decide

theorem witness_ShownIdleMeansComplete :
    let s := { fed (later (busyAt 1 noArgs [])) [.wait] with transcript := [(.regWrite 8 0x00 1, .ack)] };
    (s.phase = .busy → shownIdle s.transcript = false) ∧ step s = .next (stepped s) ∧ (stepped s).phase = .busy :=
  ⟨by decide, rfl, by decide⟩

/-- Each reason for a refusal, and the reserved offsets at the ends of their ranges. -/
theorem witness_RegisterPort :
    (idleAt []).engineTurn = false ∧ (idleAt []).resetHold = 0 ∧
    (∀ p ∈ [((4 : Nat), (0x08 : Nat)), (8, 0x0C), (8, 0x100)],
      ¬ (p.1 = 8 ∧ p.2 % 8 = 0 ∧ p.2 < 0x100) ∧
      (fed (idleAt []) [.regRead p.1 p.2]).inputs = [.regRead p.1 p.2] ∧
      (fed (idleAt []) [.regWrite p.1 p.2 7]).inputs = [.regWrite p.1 p.2 7]) ∧
    (∀ off ∈ [(0x18 : Nat), 0x50, 0xF8],
      off % 8 = 0 ∧ (off = 0x18 ∨ (0x50 ≤ off ∧ off ≤ 0xF8)) ∧
      (fed (idleAt []) [.regRead 8 off]).inputs = [.regRead 8 off] ∧
      (fed (idleAt []) [.regWrite 8 off 7]).inputs = [.regWrite 8 off 7]) := by decide

/-- Each register, ARG0 and ARG5 among them. -/
theorem witness_RegisterReads :
    let s := { idleAt [] with args := #v[1, 2, 3, 4, 5, 6], result := 7, done := true };
    s.engineTurn = false ∧ s.resetHold = 0 ∧
    (∀ p ∈ [((0x00 : Nat), (0 : Word)), (0x08, 2), (0x10, 7), (0x20, 1), (0x48, 6)],
      (fed s [.regRead 8 p.1]).inputs = [.regRead 8 p.1] ∧
      ((p.1 = 0x00 ∧ p.2 = 0) ∨ (p.1 = 0x08 ∧ p.2 = s.status) ∨ (p.1 = 0x10 ∧ p.2 = s.result) ∨
        ∃ i : Fin 6, p.1 = 0x20 + 8 * i.val ∧ p.2 = s.args[i])) := by decide

theorem witness_ArgAndResultWrites :
    (idleAt []).engineTurn = false ∧ (idleAt []).resetHold = 0 ∧
    (∀ i : Fin 6, (fed (idleAt []) [.regWrite 8 (0x20 + 8 * i.val) 9]).inputs = [.regWrite 8 (0x20 + 8 * i.val) 9]) ∧
    (fed (idleAt []) [.regWrite 8 0x10 9]).inputs = [.regWrite 8 0x10 9] ∧
    (later (busyAt 1 noArgs [])).engineTurn = true ∧
    (fed (later (busyAt 1 noArgs [])) [.regWrite 8 0x20 9]).engineTurn = false := by decide

/-- Bit 2 alone, and all bits but bit 2. -/
theorem witness_StatusWriteClearsDropped :
    (let s := fed { idleAt [] with dropped := true } [.regWrite 8 0x08 4];
      s.engineTurn = false ∧ s.resetHold = 0 ∧ s.inputs = [.regWrite 8 0x08 4]) ∧
    (let s := fed { idleAt [] with dropped := true } [.regWrite 8 0x08 0xFFFFFFFFFFFFFFFB];
      s.engineTurn = false ∧ s.resetHold = 0 ∧ s.inputs = [.regWrite 8 0x08 0xFFFFFFFFFFFFFFFB]) := by decide

theorem idle_inv : (idleAt [(0x80, 1)]).Inv :=
  ⟨by decide, by decide, by decide, by decide, by decide, by decide, by decide, by decide⟩

theorem busy_inv : (busyAt 1 #v[0x80, 1, 0, 0, 0, 0] [(0x80, 1)]).Inv :=
  ⟨by decide, by decide, by decide, by decide, by decide, by decide, by decide, by decide⟩

theorem witness_StatusLayout :
    (busyAt 1 #v[0x80, 1, 0, 0, 0, 0] [(0x80, 1)]).Inv ∧ { idleAt [] with done := true, err := .outOfBounds }.Inv :=
  ⟨busy_inv, by decide, by decide, by decide, by decide, by decide, by decide, by decide, by decide⟩

/-- The last byte, the last eight bytes, and an access beside the footprint of a busy CADD at 0x80. -/
theorem witness_BufPort :
    (∀ p ∈ [((1 : Nat), (0xFF : Nat)), (2, 0xFE), (4, 0xFC), (8, 0xF8), (8, 0x78), (8, 0x90)],
      let s := later (busyAt 1 #v[0x80, 1, 0, 0, 0, 0] [(0x80, 1)]);
      Memory.wf s.buf = true ∧ s.resetHold = 0 ∧ (p.1 = 1 ∨ p.1 = 2 ∨ p.1 = 4 ∨ p.1 = 8) ∧ p.2 % p.1 = 0 ∧
      p.2 + p.1 ≤ s.memSize ∧
      (fed s [.bufRead p.1 p.2]).engineTurn = false ∧ s.readRaces p.2 p.1 = false ∧
      (fed s [.bufWrite p.1 p.2 9]).engineTurn = false ∧ s.writeRaces p.2 p.1 = false) := by decide

/-- A width, an alignment and a bound that are refused. -/
theorem witness_BufPortRefuses :
    (∀ p ∈ [((3 : Nat), (0 : Nat)), (0, 0), (2, 0x41), (8, 0x100), (1, 0x100)],
      (¬ (p.1 = 1 ∨ p.1 = 2 ∨ p.1 = 4 ∨ p.1 = 8) ∨ p.2 % p.1 ≠ 0 ∨ (idleAt []).memSize < p.2 + p.1) ∧
      (fed (idleAt []) [.bufRead p.1 p.2]).engineTurn = false ∧ (idleAt []).resetHold = 0 ∧
      (fed (idleAt []) [.bufWrite p.1 p.2 9]).engineTurn = false) := by decide

/-- A read of the last byte and a write of the first eight bytes of a busy CADD's counter; a write to the seed of a busy
KGEN and one to the used key of a busy XAPPLY, whose bytes lie outside the write footprint. -/
theorem witness_RacesStayInTheWriteFootprint :
    (let s := later (busyAt 1 #v[0x80, 1, 0, 0, 0, 0] [(0x80, 1)]);
      Memory.wf s.buf = true ∧ s.resetHold = 0 ∧ s.phase = .busy ∧
      ((fed s [.bufRead 1 0x8F]).engineTurn = false ∧ (0x8F : Nat) + 1 ≤ s.memSize ∧ s.readRaces 0x8F 1 = true) ∧
      ((fed s [.bufWrite 8 0x80 9]).engineTurn = false ∧ (0x80 : Nat) % 8 = 0 ∧ s.writeRaces 0x80 8 = true)) ∧
    (let s := later (busyAt 2 #v[0, 16, 0x20, 32, 32, 0] []);
      s.resetHold = 0 ∧ s.phase = .busy ∧ (fed s [.bufWrite 1 0x0F 9]).engineTurn = false ∧
      s.writeRaces 0x0F 1 = true ∧ s.latchedWrites.contains 0x0F = false) ∧
    (let s := later (busyAt 3 #v[0x80, 2, 0x80, 4, 2, 2] []);
      s.resetHold = 0 ∧ s.phase = .busy ∧ (fed s [.bufWrite 2 0x82 9]).engineTurn = false ∧
      s.writeRaces 0x82 2 = true ∧ s.latchedWrites.contains 0x82 = false) := by decide

theorem witness_FailedCommandChangesNothing :
    (let s := busyAt 5 noArgs [(0x80, 1)];
      exec .hgen s = .next (stepped s) ∧ (stepped s).err ≠ .ok) ∧
    (let s := busyAt 1 #v[0xF1, 1, 0, 0, 0, 0] [(0x80, 1)];
      exec .cadd s = .next (stepped s) ∧ (stepped s).err ≠ .ok) := ⟨⟨rfl, by decide⟩, rfl, by decide⟩

theorem witness_CommandsKeepTheRegisters :
    let s := busyAt 1 #v[0x80, 1, 0, 0, 0, 0] [];
    exec .cadd s = .next (stepped s) ∧ Instr.cadd ≠ .nm16 ∧ Instr.cadd ≠ .kgen := ⟨rfl, by decide, by decide⟩

/-- The bytes next to the footprint of a CADD, a KGEN and an XAPPLY, and any byte after an error. -/
theorem witness_CommandsWriteOnlyTheirFootprint :
    (let s := busyAt 1 #v[0x80, 1, 0, 0, 0, 0] [];
      Memory.wf s.buf = true ∧ exec .cadd s = .next (stepped s) ∧ ¬ (0x80 ≤ 0x7F ∧ 0x7F < 0x90) ∧
      ¬ (0x80 ≤ 0x90 ∧ 0x90 < 0x90)) ∧
    (let s := busyAt 2 #v[0, 16, 0x20, 32, 17, 0] [];
      exec .kgen s = .next (stepped s) ∧ (stepped s).err = .ok ∧ ((0x20 : Nat) : Int) + nm16 17 = 0x40) ∧
    (let s := busyAt 3 #v[0x80, 2, 0x80, 4, 2, 2] [];
      exec .xapply s = .next (stepped s) ∧ (stepped s).err = .ok) ∧
    (let s := busyAt 5 noArgs [];
      exec .hgen s = .next (stepped s) ∧ (stepped s).err ≠ .ok) :=
  ⟨⟨by decide, rfl, by decide, by decide⟩, ⟨rfl, by decide, by decide⟩, ⟨rfl, by decide⟩, rfl, by decide⟩

/-- Two memories that differ outside the counter of a CADD. -/
theorem witness_CommandsReadOnlyTheirFootprint :
    let s := busyAt 1 #v[0x80, 1, 0, 0, 0, 0] [(0x10, 5)];
    Memory.wf s.buf = true ∧ Memory.wf ([(0x90, 6)] : Memory) = true ∧ s.buf ≠ [(0x90, 6)] ∧
    readSpans s.memSize s.latch.x .cadd = [⟨0x80, 16⟩] ∧
    ∀ sp ∈ readSpans s.memSize s.latch.x .cadd, ∀ b, sp.contains b = true →
      readByte [(0x90, 6)] b = readByte s.buf b := by
  refine ⟨by decide, by decide, by decide, by decide, ?_⟩
  intro sp hsp b hb
  have h : sp = ⟨0x80, 16⟩ := by
    have h' : readSpans (busyAt 1 #v[0x80, 1, 0, 0, 0, 0] [(0x10, 5)]).memSize
        (busyAt 1 #v[0x80, 1, 0, 0, 0, 0] [(0x10, 5)]).latch.x .cadd = [⟨0x80, 16⟩] := by decide
    rw [h'] at hsp
    exact List.mem_singleton.mp hsp
  subst h
  have hb' : 0x80 ≤ b ∧ b < 0x80 + 16 := of_decide_eq_true hb
  have h1 : ¬ (0x90 = b) := by omega
  have h2 : ¬ (0x10 = b) := by omega
  show readByte [(0x90, 6)] b = readByte [(0x10, 5)] b
  simp only [readByte, h1, h2, if_false]

/-- RESULT changes by an NM16 of 17, and by a reset. -/
theorem witness_OnlyNm16OrResetWritesResult :
    (let s := busyAt 4 #v[17, 0, 0, 0, 0, 0] [];
      step s = .next (stepped s) ∧ (stepped s).result ≠ s.result) ∧
    (let s := fed { idleAt [] with result := 32 } [.reset 0];
      step s = .next (stepped s) ∧ (stepped s).result ≠ s.result) := ⟨⟨rfl, by decide⟩, rfl, by decide⟩

theorem witness_ReservedWordsAreIllegal :
    0x06 ≤ ((0x06 : Word).extractLsb' 0 8).toNat ∧ 0x06 ≤ ((0xFF : Word).extractLsb' 0 8).toNat ∧
      (0x100 : Word).extractLsb' 8 56 ≠ 0 ∧ (0x8000000000000001 : Word).extractLsb' 8 56 ≠ 0 := by decide

/-- N9, N10, N11, N12: the ends of both ranges. -/
theorem witness_Nm16RoundsUp :
    s64 0x8000000000000000 ≤ 2 ^ 63 - 16 ∧ s64 0x7FFFFFFFFFFFFFF0 ≤ 2 ^ 63 - 16 ∧
      2 ^ 63 - 16 < s64 0x7FFFFFFFFFFFFFF1 ∧ 2 ^ 63 - 16 < s64 0x7FFFFFFFFFFFFFFF := by decide

/-- S3's deltas, the largest sum, and the counter of S2. -/
theorem witness_CounterAddLaws :
    (5 : Word).toNat + (7 : Word).toNat < 2 ^ 64 ∧ (0xFFFFFFFFFFFFFFFE : Word).toNat + (1 : Word).toNat < 2 ^ 64 ∧
      ∃ v : Counter, ∀ j : Fin 16, v[j] = 0xFF :=
  ⟨by decide, by decide, ⟨#v[0xFF, 0xFF, 0xFF, 0xFF, 0xFF, 0xFF, 0xFF, 0xFF, 0xFF, 0xFF, 0xFF, 0xFF, 0xFF, 0xFF, 0xFF, 0xFF],
    by decide⟩⟩

/-- C10 and C9: the last counter in BUF and the first one that is not. -/
theorem witness_CaddAddsInPlace :
    (let s := busyAt 1 #v[0xF0, 1, 0, 0, 0, 0] [];
      Memory.wf s.buf = true ∧ s.raced = false ∧ u64 s.latch.x[0] + 16 ≤ s.memSize) ∧
    (let s := busyAt 1 #v[0xF1, 1, 0, 0, 0, 0] [];
      Memory.wf s.buf = true ∧ s.raced = false ∧ s.memSize < u64 s.latch.x[0] + 16) := by decide

/-- The hypotheses of KgenWritesTheKeystream on the latched arguments `x`. -/
abbrev KgenPasses (x : Vector Word 6) : Prop :=
  (busyAt 2 x [(15, 1)]).raced = false ∧ (busyAt 2 x [(15, 1)]).memSize = 0x100 ∧ (busyAt 2 x [(15, 1)]).latch.x = x ∧
    u64 x[1] = 16 ∧ 0 ≤ s64 x[4] ∧ 0 ≤ s64 x[5] ∧ u64 x[0] + 16 ≤ 0x100 ∧ u64 x[2] + u64 x[3] ≤ 0x100 ∧
    nm16 (s64 x[4]) ≤ u64 x[3]

/-- K18 (the last block that fits), K20 (the output overwrites the seed) and K21's SIZE cut to what fits. -/
theorem witness_KgenWritesTheKeystream :
    Memory.wf ([(15, 1)] : Memory) = true ∧ KgenPasses #v[0, 16, 0xF0, 16, 16, 0] ∧ KgenPasses #v[0, 16, 0, 32, 32, 0] ∧
      KgenPasses #v[0xF0, 16, 0, 0x100, 0xF1, 0x7FFFFFFFFFFFFFFF] ∧ 16 * ((0xF : Nat) : Int) < nm16 0xF1 := by decide

/-- K13 and K21: errors of KGEN. -/
theorem witness_KgenChecksInOrder :
    (stepped (busyAt 2 #v[0, 15, 0x20, 16, 16, 0] [])).err = .invalidArgument ∧
      (stepped (busyAt 2 #v[0, 16, 0, 0x100, 0x7FFFFFFFFFFFFFFF, 0] [])).err = .outOfBounds := by decide

/-- K10 and K11. -/
theorem witness_KgenOfSizeZero :
    KgenPasses #v[0, 16, 0x20, 0, 0, 0] ∧ KgenPasses #v[0, 16, 0x100, 0, 0, 0] ∧ s64 0 = 0 := by decide

/-- The hypotheses of XapplyCombinesLanes on the latched arguments `x`. -/
abbrev XapplyPasses (x : Vector Word 6) : Prop :=
  (busyAt 3 x []).raced = false ∧ (busyAt 3 x []).memSize = 0x100 ∧ (busyAt 3 x []).latch.x = x ∧
    0 ≤ s64 x[4] ∧ 0 ≤ s64 x[5] ∧ u64 x[0] + u64 x[1] ≤ 0x100 ∧ u64 x[2] + u64 x[3] ≤ 0x100 ∧
    s64 x[4] ≤ u64 x[1] ∧ s64 x[5] + s64 x[4] ≤ u64 x[3] ∧
    (0 < s64 x[4] → u64 x[2] + s64 x[5] + s64 x[4] ≤ u64 x[0] ∨ u64 x[0] + s64 x[4] ≤ u64 x[2] + s64 x[5])

/-- X12, X3 (LENGTH 0), and a source just below and just above the used key range. -/
theorem witness_XapplyCombinesLanes :
    Memory.wf ([] : Memory) = true ∧ XapplyPasses #v[0x80, 2, 0x80, 4, 2, 2] ∧ XapplyPasses #v[0x40, 2, 0x80, 3, 0, 3] ∧
      XapplyPasses #v[0x82, 2, 0x80, 2, 2, 0] ∧ XapplyPasses #v[0x7E, 2, 0x80, 2, 2, 0] := by decide

/-- X9, X15 and X13: errors of XAPPLY. -/
theorem witness_XapplyChecksInOrder :
    (stepped (busyAt 3 #v[0x81, 2, 0x80, 3, 2, 1] [])).err = .invalidArgument ∧
      (stepped (busyAt 3 #v[0xFF, 2, 0x80, 3, 0xFFFFFFFFFFFFFFFF, 0] [])).err = .invalidArgument ∧
      (stepped (busyAt 3 #v[0xFF, 2, 0x80, 3, 2, 0] [])).err = .outOfBounds := by decide

/-- X1, and X11's all-zero key. -/
theorem witness_XapplyTwiceRestores :
    (let s := busyAt 3 #v[0x40, 2, 0x80, 3, 2, 1] [(0x40, 0x41), (0x41, 0x42), (0x80, 1), (0x81, 2), (0x82, 3)];
      Memory.wf s.buf = true ∧ s.raced = false ∧ (stepped s).err = .ok ∧ (stepped s).buf ≠ s.buf) ∧
    (let s := busyAt 3 #v[0x40, 2, 0x80, 2, 2, 0] [(0x40, 1), (0x41, 2)];
      Memory.wf s.buf = true ∧ s.raced = false ∧ (stepped s).err = .ok ∧
      ∀ j < 2, readByte s.buf (u64 s.latch.x[2] + (s64 s.latch.x[5]).toNat + j) = 0) := by decide

/-- The hypotheses of KeystreamFeedsXapply for P1's KGEN 0x00, 16, 0x10, 32, 20, 2 and XAPPLY arguments `x`. -/
abbrev KeystreamFits (x : Vector Word 6) : Prop :=
  let s := busyAt 2 #v[0, 16, 0x10, 32, 20, 2] [(15, 1), (0x40, 0x41)];
  Memory.wf s.buf = true ∧ s.raced = false ∧ kgenError s.memSize (kgenArgs s.latch.x) = none ∧
    u64 s.latch.x[2] ≤ u64 x[2] ∧ (u64 x[2] + u64 x[3] : Int) ≤ u64 s.latch.x[2] + nm16 (s64 s.latch.x[4]) ∧
    0 ≤ s64 x[4] ∧ 0 ≤ s64 x[5] ∧ u64 x[0] + u64 x[1] ≤ s.memSize ∧ s64 x[4] ≤ u64 x[1] ∧
    s64 x[5] + s64 x[4] ≤ u64 x[3] ∧ xapplyOverlap (xapplyArgs x) = false

/-- P1's XAPPLY 0x40, 4, 0x10, 32, 4, 14, whose key is all of the output, and one whose key is its last five bytes. -/
theorem witness_KeystreamFeedsXapply :
    KeystreamFits #v[0x40, 4, 0x10, 32, 4, 14] ∧ KeystreamFits #v[0x40, 4, 0x2B, 5, 4, 1] := by decide

/-- A reset of an idle and of a busy machine. -/
theorem witness_ResetEvent :
    (let s := fed (idleAt [(0x80, 1)]) [.reset 2];
      Memory.wf s.buf = true ∧ s.inputs = [.reset 2] ∧ s.engineTurn = false ∧ s.phase = .idle) ∧
    (let s := fed (later (busyAt 2 #v[0, 16, 0x20, 32, 32, 0] [(0x80, 1)])) [.reset 0];
      Memory.wf s.buf = true ∧ s.inputs = [.reset 0] ∧ s.engineTurn = false ∧ s.phase = .busy ∧
      s.latchedWrites.contains 0x1F = false ∧ s.latchedWrites.contains 0x40 = false) := by decide

theorem witness_PowerOnEvent :
    let s := fed (idleAt [(0x80, 1)]) [.powerOn [(0xFF, 1), (0x100, 2)] 0];
    s.inputs = [.powerOn [(0xFF, 1), (0x100, 2)] 0] ∧ s.engineTurn = false := by decide

theorem witness_TransactionsIgnoredInReset :
    ∀ inp ∈ [Input.wait, .regWrite 8 0x00 1, .bufRead 3 0x100],
      let s := fed { idleAt [] with resetHold := 1 } [inp];
      s.inputs = [inp] ∧ inp.isTransaction = true ∧ s.engineTurn = false ∧ 0 < s.resetHold := by decide

theorem witness_StepKeepsInvariant :
    (busyAt 1 #v[0x80, 1, 0, 0, 0, 0] [(0x80, 1)]).Inv ∧
    step (busyAt 1 #v[0x80, 1, 0, 0, 0, 0] [(0x80, 1)]) = .next (stepped (busyAt 1 #v[0x80, 1, 0, 0, 0, 0] [(0x80, 1)])) :=
  ⟨busy_inv, rfl⟩

/-- Two idle states with different latches and CTRs, and two busy ones with one latch and different CTRs. -/
theorem witness_HiddenStateIsNeverSeen :
    (let s := idleAt [];
      let t := { idleAt [] with latch := ⟨1, 2, noArgs⟩, ctr := zeroCounter.set 3 7 };
      s.Alike t ∧ s ≠ t) ∧
    (let s := busyAt 2 #v[0, 16, 0x20, 16, 16, 0] [];
      let t := { busyAt 2 #v[0, 16, 0x20, 16, 16, 0] [] with ctr := zeroCounter.set 3 7 };
      s.Alike t ∧ s ≠ t) :=
  ⟨⟨⟨by decide, fun h => absurd h (by decide)⟩, by decide⟩, ⟨by decide, fun _ => rfl⟩, by decide⟩

theorem witness_PseudoExpansions : 1 < ([0xAA, 0x55] : List Byte).length ∧ 0 < 2 ∧ 1 < 2 := by decide

end Sys2Proof.Tests
end

section
/-! PROOFS. The big-endian value as a weighted sum (R14), and the invariant of a machine right after power-on and
after reset (R11, R33, R36). -/

namespace Sys2Proof.Config

theorem le_memSize : 16 ≤ memSize := le_max_left _ _

theorem memSize_le : memSize ≤ 2 ^ 64 := max_le (by norm_num) (min_le_right _ _)

end Sys2Proof.Config

namespace Sys2Proof.Machine

/-- Settles O19, by induction on the bytes: the first one is the term of j = 0, and the others keep their weights,
which count from the end of the sequence. -/
theorem bigEndianIsTheWeightedSum : Obligations.BigEndianIsTheWeightedSum := by
  intro l
  induction l with
  | nil => rfl
  | cons b l ih =>
    have hweight (j : Fin l.length) : (b :: l).length - 1 - j.succ.val = l.length - 1 - j.val := by
      simp only [List.length_cons, Fin.val_succ]; omega
    have hsplit := Fin.sum_univ_succ (n := l.length)
      fun j => (b :: l)[j].toNat * 256 ^ ((b :: l).length - 1 - j.val)
    simp only [hweight] at hsplit
    calc be (b :: l)
        = b.toNat * 256 ^ l.length + ∑ j : Fin l.length, l[j].toNat * 256 ^ (l.length - 1 - j.val) := by rw [be, ih]
      _ = ∑ j : Fin (b :: l).length, (b :: l)[j].toNat * 256 ^ ((b :: l).length - 1 - j.val) := hsplit.symm

/-- The machine after power-on meets the invariant if its parameters of R11 are admissible: the size, and a BUF in
canonical form within it. -/
theorem State.powerOn_inv {n : Nat} {m : Memory} (hlo : 16 ≤ n) (hhi : n ≤ 2 ^ 64) (hwf : Memory.wf m = true)
    (hbelow : Memory.below n m = true) : (State.powerOn n m).Inv where
  size_lo := hlo
  size_hi := hhi
  buf_wf := hwf
  buf_below := hbelow
  busy_not_done _ := rfl
  err_ok_until_done _ := rfl
  raced_busy h := nomatch h
  held_idle _ := rfl

/-- Settles O50: every possible `Config.memSize` is admissible, and a BUF that lists nothing is canonical and within
it. -/
theorem resetMeetsInvariant : Obligations.ResetMeetsInvariant :=
  State.powerOn_inv Config.le_memSize Config.memSize_le Memory.wf_nil rfl

end Sys2Proof.Machine
end

section
/-! PROOFS. What one step can do, said once: the completion step of any command as the shared end around the command's
own pseudocode (R93), and the effect of any host transaction (R5, R66). -/

namespace Sys2Proof.Machine

/-! ### Whose step it was -/

/-- A step is the completion step of the latched command, a host with nothing left to do, or the host's next input. -/
theorem step_cases {s t : State} (h : step s = .next t) :
    (s.engineTurn = true ∧ exec s.latched s = .next t) ∨ (s.inputs = [] ∧ t = s) ∨
      ∃ inp rest, s.engineTurn = false ∧ s.inputs = inp :: rest ∧ t = hostTakes inp rest s := by
  cases hturn : s.engineTurn with
  | true => exact .inl ⟨rfl, step_engine hturn ▸ h⟩
  | false =>
    rw [step_host hturn] at h
    cases h
    cases hin : s.inputs with
    | nil => exact .inr (.inl ⟨rfl, hostStep_nil hin⟩)
    | cons inp rest => exact .inr (.inr ⟨inp, rest, rfl, rfl, hostStep_cons hin⟩)

/-! ### The completion step -/

/-- The pseudocode of a command after its checks, on the latched arguments `x`. -/
def commandBody (x : Vector Word 6) : Instr → State → State
  | .cadd => caddBody (caddArgs x)
  | .kgen => kgenBody (kgenArgs x)
  | .xapply => xapplyBody (xapplyArgs x)
  | .nm16 => nm16Body (nm16Arg x)
  | .nop | .hgen | .illegal _ => id

/-- The shared end of a command (R93) around its own checks, write footprint and pseudocode. -/
def State.concludeCommand (i : Instr) (s : State) : State :=
  s.conclude (checkError s.memSize s.latch.x i) (writeSpan s.memSize s.latch.x i) (commandBody s.latch.x i)

/-- The footprint matters to a command that passes its checks only. -/
theorem State.concludeCommand_eq {i : Instr} {s : State} {sp : Span}
    (h : checkError s.memSize s.latch.x i = none → writeSpan s.memSize s.latch.x i = sp) :
    s.concludeCommand i = s.conclude (checkError s.memSize s.latch.x i) sp (commandBody s.latch.x i) := by
  unfold State.concludeCommand
  cases hcheck : checkError s.memSize s.latch.x i with
  | none => rw [h hcheck]
  | some e => rfl

/-- The completion step of KGEN also ends the life of CTR (R32). -/
theorem exec_kgen (s : State) : exec .kgen s = .next (s.concludeCommand .kgen).forgetCtr := by
  rw [State.concludeCommand_eq writeSpan_of_ok]
  rfl

/-- The completion step of every other command is the shared end (R93). -/
theorem exec_eq {i : Instr} (s : State) (h : i ≠ .kgen) : exec i s = .next (s.concludeCommand i) := by
  cases i with
  | kgen => exact absurd rfl h
  | nop | cadd | xapply | nm16 =>
    rw [State.concludeCommand_eq writeSpan_of_ok]
    rfl
  | hgen | illegal w => rfl

/-- What the completion step of a command can lead to. -/
theorem exec_cases {i : Instr} {s t : State} (h : exec i s = .next t) :
    (i = .kgen ∧ t = (s.concludeCommand i).forgetCtr) ∨ (i ≠ .kgen ∧ t = s.concludeCommand i) := by
  by_cases hk : i = .kgen
  · subst hk
    rw [exec_kgen] at h
    cases h
    exact .inl ⟨rfl, rfl⟩
  · rw [exec_eq s hk] at h
    cases h
    exact .inr ⟨hk, rfl⟩

theorem kgenLoop_frame (outAddr k w : Nat) (s : State) :
    ∃ c m, kgenLoop outAddr k w s = { s with ctr := c, buf := m } := by
  induction k generalizing w s with
  | zero => exact ⟨s.ctr, s.buf, rfl⟩
  | succ k ih =>
    obtain ⟨c, m, h⟩ := ih (w + 16)
      { s with buf := storeCounter s.buf (outAddr + w) s.ctr, ctr := counterAdd s.ctr 1 }
    exact ⟨c, m, h⟩

/-- The pseudocode of a command writes RESULT, CTR and BUF alone. -/
theorem commandBody_frame (x : Vector Word 6) (i : Instr) (s : State) :
    ∃ r c m, commandBody x i s = { s with result := r, ctr := c, buf := m } := by
  cases i with
  | nop | hgen | illegal w => exact ⟨s.result, s.ctr, s.buf, rfl⟩
  | cadd => exact ⟨s.result, s.ctr, (caddBody (caddArgs x) s).buf, by simp only [commandBody, caddBody]⟩
  | xapply => exact ⟨s.result, s.ctr, (xapplyBody (xapplyArgs x) s).buf, by simp only [commandBody, xapplyBody]⟩
  | nm16 => exact ⟨(nm16Body (nm16Arg x) s).result, s.ctr, s.buf, rfl⟩
  | kgen =>
    obtain ⟨c, m, h⟩ := kgenLoop_frame (kgenArgs x).outAddr (blocks (kgenArgs x).size) 0 (kgenStart (kgenArgs x) s)
    exact ⟨s.result, c, m, by rw [commandBody, kgenBody, h]; simp only [kgenStart]⟩

/-- RESULT is written by the pseudocode of NM16 alone (R21). -/
theorem commandBody_result {i : Instr} (x : Vector Word 6) (s : State) (h : i ≠ .nm16) :
    (commandBody x i s).result = s.result := by
  cases i with
  | nm16 => exact absurd rfl h
  | cadd => exact caddBody_result _ s
  | kgen => exact kgenBody_result _ s
  | xapply => exact xapplyBody_result _ s
  | nop | hgen | illegal w => rfl

/-- CTR is written by the pseudocode of KGEN alone (R32). -/
theorem commandBody_ctr {i : Instr} (x : Vector Word 6) (s : State) (h : i ≠ .kgen) :
    (commandBody x i s).ctr = s.ctr := by
  cases i with
  | kgen => exact absurd rfl h
  | cadd => exact caddBody_ctr _ s
  | xapply => exact xapplyBody_ctr _ s
  | nm16 => exact nm16Body_ctr _ s
  | nop | hgen | illegal w => rfl

theorem State.settleRace_frame (sp : Span) (s : State) :
    ∃ m n, s.settleRace sp = { s with buf := m, draws := n } := by
  unfold State.settleRace
  split
  · exact ⟨_, _, rfl⟩
  · exact ⟨s.buf, s.draws, rfl⟩

theorem State.concludeCommand_frame (i : Instr) (s : State) :
    ∃ e l n r c m, s.concludeCommand i = { s.completed e l n with result := r, ctr := c, buf := m } := by
  unfold State.concludeCommand
  cases checkError s.memSize s.latch.x i with
  | some e => exact ⟨e.code, idleLatch s.draws, s.draws + 1, s.result, s.ctr, s.buf, rfl⟩
  | none =>
    obtain ⟨r, c, m, hbody⟩ := commandBody_frame s.latch.x i s
    obtain ⟨m', n, hrace⟩ := State.settleRace_frame (writeSpan s.memSize s.latch.x i) (commandBody s.latch.x i s)
    rw [State.conclude_none, hrace, hbody]
    exact ⟨.ok, idleLatch n, n + 1, r, c, m', rfl⟩

/-- A completion step changes STATUS, the latch, RESULT, CTR, BUF and the bookkeeping of the command, and nothing
else. -/
theorem exec_frame {i : Instr} {s t : State} (h : exec i s = .next t) :
    ∃ e l n r c m, t = { s.completed e l n with result := r, ctr := c, buf := m } := by
  obtain ⟨e, l, n, r, c, m, hc⟩ := State.concludeCommand_frame i s
  obtain ⟨-, rfl⟩ | ⟨-, rfl⟩ := exec_cases h
  · rw [hc]
    exact ⟨e, l, n + 1, r, idleCtr n, m, rfl⟩
  · exact ⟨e, l, n, r, c, m, hc⟩

/-- Only an NM16 that passes its check changes RESULT (R21). -/
theorem State.concludeCommand_result_changes {i : Instr} {s : State} (h : (s.concludeCommand i).result ≠ s.result) :
    i = .nm16 ∧ (s.concludeCommand i).err = .ok := by
  refine ⟨by_contra fun hi => h (State.conclude_result _ _ _ _ (commandBody_result s.latch.x s hi)), ?_⟩
  revert h
  unfold State.concludeCommand
  cases checkError s.memSize s.latch.x i with
  | none => exact fun _ => rfl
  | some e => exact fun h => absurd rfl h

theorem exec_result_changes {i : Instr} {s t : State} (h : exec i s = .next t) (hr : t.result ≠ s.result) :
    i = .nm16 ∧ t.err = .ok := by
  obtain ⟨-, rfl⟩ | ⟨-, rfl⟩ := exec_cases h
  · rw [State.forgetCtr_result] at hr
    rw [State.forgetCtr_err]
    exact State.concludeCommand_result_changes hr
  · exact State.concludeCommand_result_changes hr

/-- CTR is written by the completion step of KGEN alone (R32). -/
theorem exec_ctr {i : Instr} {s t : State} (h : exec i s = .next t) (hi : i ≠ .kgen) : t.ctr = s.ctr := by
  obtain ⟨hk, -⟩ | ⟨-, rfl⟩ := exec_cases h
  · exact absurd hk hi
  · exact State.conclude_ctr _ _ _ _ (commandBody_ctr s.latch.x s hi)

/-- Settles O25: the frame of the completion step, and who writes RESULT and CTR. -/
theorem commandsKeepTheRegisters : Obligations.CommandsKeepTheRegisters := by
  intro i s t h
  have hresult : i ≠ .nm16 → t.result = s.result := fun hi => by_contra fun hr => hi (exec_result_changes h hr).1
  have hctr := exec_ctr h
  obtain ⟨e, l, n, r, c, m, rfl⟩ := exec_frame h
  exact ⟨rfl, rfl, hresult, hctr, rfl, rfl, rfl, rfl, rfl⟩

/-! ### The host's transactions -/

/-- What a host transaction can do to the machine: it is ignored while reset is asserted (R121), it does nothing, or
it has the effect of one served access. -/
inductive State.HostEffect (s : State) : State → Prop
  /-- Reset is asserted (R121). -/
  | ignored : s.HostEffect { s with resetHold := s.resetHold - 1 }
  /-- A refused access, a register read, WAIT's read, or a write to RESULT or a reserved slot. -/
  | nothing : s.HostEffect s
  /-- A command issue that is accepted (R92). -/
  | accept (w : Word) (hidle : s.phase = .idle) (hrelease : s.resetHold = 0) :
      s.HostEffect (s.latchCommand w).drawDelay
  /-- A command issue that is dropped (R94). -/
  | drop (hbusy : s.phase = .busy) : s.HostEffect s.flagsDropped
  /-- A write to STATUS (R28). -/
  | status (v : Word) : s.HostEffect (s.writeStatus v)
  /-- A write to an ARG register (R20). -/
  | arg (i : Fin 6) (v : Word) : s.HostEffect { s with args := s.args.set i v }
  /-- A write to BUF (R40). -/
  | bufWrite (n a : Nat) (v : Word) (hfits : a + n ≤ s.memSize) : s.HostEffect (hostWriteBuf n a v s)
  /-- A read of BUF (R40). -/
  | bufRead (n a : Nat) : s.HostEffect (drawRead n a s)

theorem writeReg_effect (r : RegName) (v : Word) {s : State} (hr : s.resetHold = 0) :
    s.HostEffect (writeReg r v s) := by
  cases r with
  | cmd =>
    cases hphase : s.phase with
    | idle =>
      rw [writeReg, State.issue_idle v hphase]
      exact .accept v hphase hr
    | busy =>
      rw [writeReg, State.issue_busy v hphase]
      exact .drop hphase
  | status => exact .status v
  | arg i => exact .arg i v
  | result | reserved => exact .nothing

theorem transact_effect {inp : Input} {s : State} (h : inp.isTransaction = true) (hr : s.resetHold = 0) :
    s.HostEffect (transact inp s).1 := by
  cases inp with
  | regWrite width off v =>
    simp only [transact]
    split
    · exact writeReg_effect _ v hr
    · exact .nothing
  | regRead width off =>
    simp only [transact]
    split <;> exact .nothing
  | bufWrite width addr v =>
    simp only [transact]
    split
    · rename_i hserves
      obtain ⟨-, -, hfits⟩ := (bufPortServes_iff _ _ _).1 hserves
      exact .bufWrite width addr v hfits
    · exact .nothing
  | bufRead width addr =>
    simp only [transact]
    split
    · exact .bufRead width addr
    · exact .nothing
  | wait => exact .nothing
  | reset hold | powerOn contents hold => cases h

/-- Every host transaction has one of these effects. -/
theorem deliver_effect {inp : Input} (s : State) (h : inp.isTransaction = true) :
    s.HostEffect (deliver inp s).1 := by
  unfold deliver
  split
  · exact .ignored
  · rename_i hign
    exact transact_effect h (by simpa [State.ignores, h] using hign)

/-- A reset or a power-on takes effect also while reset is asserted. -/
theorem deliver_event {inp : Input} (s : State) (h : inp.isTransaction = false) : deliver inp s = transact inp s := by
  simp [deliver, State.ignores, h]

/-- No host transaction changes RESULT (R21). -/
theorem State.HostEffect.result {s t : State} (h : s.HostEffect t) : t.result = s.result := by
  cases h <;> simp

/-- No host transaction leads out of DONE = 1 or BUSY = 1 (R25): an accepted issue clears DONE and sets BUSY. -/
theorem State.HostEffect.done_or_busy {s t : State} (h : s.HostEffect t) (hs : s.done = true ∨ s.phase = .busy) :
    t.done = true ∨ t.phase = .busy := by
  cases h with
  | accept => exact .inr (by simp)
  | ignored | nothing | drop | status | arg | bufWrite | bufRead => simpa using hs

/-- An input that is no reset and no power-on is a host transaction. -/
theorem isTransaction_of_not_resetNext {s : State} {inp : Input} {rest : List Input} (hturn : s.engineTurn = false)
    (hin : s.inputs = inp :: rest) (h : ¬ s.resetNext) : inp.isTransaction = true := by
  by_contra hinp
  exact h ⟨hturn, inp, rest, hin, by simpa using hinp⟩

/-- Settles O10: a completion step sets DONE, and no host transaction leads out of DONE or BUSY. -/
theorem doneOrBusyUntilReset : Obligations.DoneOrBusyUntilReset := by
  intro s t h hreset hs
  obtain ⟨-, hexec⟩ | ⟨-, rfl⟩ | ⟨inp, rest, hturn, hin, rfl⟩ := step_cases h
  · obtain ⟨e, l, n, r, c, m, rfl⟩ := exec_frame hexec
    exact .inl rfl
  · exact hs
  · exact (deliver_effect s.tick (isTransaction_of_not_resetNext hturn hin hreset)).done_or_busy hs

/-- Settles O28: of the completion steps only a successful NM16's changes RESULT, and no host transaction does. -/
theorem onlyNm16OrResetWritesResult : Obligations.OnlyNm16OrResetWritesResult := by
  intro s t h hr
  obtain ⟨hturn, hexec⟩ | ⟨-, rfl⟩ | ⟨inp, rest, hturn, hin, rfl⟩ := step_cases h
  · exact .inl ⟨hturn, exec_result_changes hexec hr⟩
  · exact absurd rfl hr
  · refine .inr (by_contra fun hreset => hr ?_)
    exact (deliver_effect s.tick (isTransaction_of_not_resetNext hturn hin hreset)).result

end Sys2Proof.Machine
end

section
/-! PROOFS. The invariant of CORE is kept by every step: by the completion step of each command, by each effect of a
host transaction, and by a reset or a power-on. -/

namespace Sys2Proof.Machine

/-! ### BUF stays canonical and within `MEM_SIZE` -/

/-- The write footprint lies in BUF (R44, R45). -/
theorem writeSpan_le (memSize : Nat) (x : Vector Word 6) (i : Instr) :
    (writeSpan memSize x i).start + (writeSpan memSize x i).len ≤ memSize := by
  cases hcheck : checkError memSize x i with
  | some e =>
    rw [writeSpan_of_error hcheck]
    exact Nat.zero_le _
  | none =>
    rw [writeSpan_of_ok hcheck]
    cases i with
    | cadd => exact (caddError_eq_none _ _).1 hcheck
    | kgen =>
      obtain ⟨-, -, -, -, hout, hsize⟩ := (kgenError_eq_none _ _).1 hcheck
      simp only [KgenArgs.span]
      omega
    | xapply =>
      obtain ⟨-, -, hsrc, -, hlen, -⟩ := (xapplyError_eq_none _ _).1 hcheck
      simp only [XapplyArgs.span]
      omega
    | nop | nm16 | hgen | illegal w => exact Nat.zero_le _

theorem wf_commandBody (x : Vector Word 6) (i : Instr) {s : State} (h : Memory.wf s.buf = true) :
    Memory.wf (commandBody x i s).buf = true := by
  cases i with
  | cadd =>
    rw [commandBody, caddBody_buf]
    exact Memory.wf_storeCounter _ _ h
  | kgen =>
    rw [commandBody, kgenBody]
    exact wf_kgenLoop _ _ _ (by rwa [kgenStart_buf])
  | xapply =>
    rw [commandBody, xapplyBody_buf]
    exact wf_xorLoop _ _ _ _ h
  | nop | nm16 | hgen | illegal w => exact h

/-- A command that passes its checks writes no byte at or past `MEM_SIZE`. -/
theorem below_commandBody {x : Vector Word 6} {i : Instr} {s : State} {n : Nat} (hcheck : checkError n x i = none)
    (h : Memory.below n s.buf = true) : Memory.below n (commandBody x i s).buf = true := by
  have hspan := writeSpan_le n x i
  rw [writeSpan_of_ok hcheck] at hspan
  cases i with
  | cadd =>
    rw [commandBody, caddBody_buf]
    exact Memory.below_storeCounter _ _ h hspan
  | kgen =>
    obtain ⟨-, hsize, -⟩ := (kgenError_eq_none _ _).1 hcheck
    have hblocks := sixteen_mul_blocks hsize
    simp only [KgenArgs.span] at hspan
    rw [commandBody, kgenBody]
    exact below_kgenLoop (by rwa [kgenStart_buf]) (by omega)
  | xapply =>
    rw [commandBody, xapplyBody_buf]
    exact below_xorLoop h hspan
  | nop | nm16 | hgen | illegal w => exact h

theorem State.wf_concludeCommand (i : Instr) {s : State} (h : Memory.wf s.buf = true) :
    Memory.wf (s.concludeCommand i).buf = true :=
  State.wf_conclude _ _ _ _ h (wf_commandBody s.latch.x i h)

theorem State.below_concludeCommand (i : Instr) {s : State} (h : Memory.below s.memSize s.buf = true) :
    Memory.below s.memSize (s.concludeCommand i).buf = true := by
  unfold State.concludeCommand
  cases hcheck : checkError s.memSize s.latch.x i with
  | some e => exact h
  | none => exact State.below_settleRace (below_commandBody hcheck h) (writeSpan_le _ _ i)

theorem State.wf_abort {s : State} (h : Memory.wf s.buf = true) : Memory.wf s.abort.buf = true := by
  unfold State.abort
  split
  · exact h
  · exact Memory.wf_fillSpan _ _ h

theorem State.below_abort {s : State} (h : Memory.below s.memSize s.buf = true) :
    Memory.below s.memSize s.abort.buf = true := by
  unfold State.abort
  split
  · exact h
  · exact Memory.below_fillSpan _ _ h (writeSpan_le _ _ _)

/-! ### The invariant -/

/-- A completion step leads to an idle engine with DONE = 1 and no race. -/
theorem exec_inv {i : Instr} {s t : State} (hs : s.Inv) (h : exec i s = .next t) : t.Inv := by
  have hbuf : t.buf = (s.concludeCommand i).buf := by
    obtain ⟨-, rfl⟩ | ⟨-, rfl⟩ := exec_cases h
    · exact State.forgetCtr_buf _
    · rfl
  have hwf : Memory.wf t.buf = true := hbuf ▸ State.wf_concludeCommand i hs.buf_wf
  have hbelow : Memory.below s.memSize t.buf = true := hbuf ▸ State.below_concludeCommand i hs.buf_below
  obtain ⟨e, l, n, r, c, m, rfl⟩ := exec_frame h
  exact
    { size_lo := hs.size_lo
      size_hi := hs.size_hi
      buf_wf := hwf
      buf_below := hbelow
      busy_not_done := nofun
      err_ok_until_done := nofun
      raced_busy := nofun
      held_idle := fun _ => rfl }

theorem State.drawDelay_frame (s : State) :
    ∃ d ds n, s.drawDelay = { s with delay := d, delays := ds, draws := n } := by
  unfold State.drawDelay
  split
  · exact ⟨_, _, s.draws, rfl⟩
  · exact ⟨_, s.delays, _, rfl⟩

/-- Every effect of a host transaction keeps the invariant. -/
theorem State.HostEffect.inv {s t : State} (h : s.HostEffect t) (hs : s.Inv) : t.Inv := by
  cases h with
  | ignored => exact { hs with held_idle := fun hpos => hs.held_idle (Nat.lt_of_lt_of_le hpos (Nat.sub_le _ _)) }
  | nothing => exact hs
  | accept w hidle hrelease =>
    obtain ⟨d, ds, n, heq⟩ := State.drawDelay_frame (s.latchCommand w)
    rw [heq]
    exact
      { hs with
        busy_not_done := fun _ => rfl
        err_ok_until_done := fun _ => rfl
        raced_busy := nofun
        held_idle := fun hpos => absurd hrelease (Nat.pos_iff_ne_zero.1 hpos) }
  | drop hbusy | status v | arg i v => exact { hs with }
  | bufWrite n a v hfits =>
    have hraced : (hostWriteBuf n a v s).raced = true → s.phase = .busy := by
      rw [hostWriteBuf_raced, Bool.or_eq_true]
      rintro (hraced | hraces)
      · exact hs.raced_busy hraced
      · exact (State.busy_iff s).1 (Bool.and_eq_true_iff.1 hraces).1
    exact
      { hs with
        buf_wf := Memory.wf_writeBytes _ _ hs.buf_wf
        buf_below := Memory.below_writeBytes _ _ hs.buf_below (by rwa [length_bytesBE])
        raced_busy := hraced }
  | bufRead n a =>
    unfold drawRead
    split
    · exact { hs with }
    · exact hs

/-- The registers after a reset meet the invariant, given a BUF that does. -/
theorem State.resetRegs_inv {s : State} (hold : Nat) (hlo : 16 ≤ s.memSize) (hhi : s.memSize ≤ 2 ^ 64)
    (hwf : Memory.wf s.buf = true) (hbelow : Memory.below s.memSize s.buf = true) : (s.resetRegs hold).Inv where
  size_lo := hlo
  size_hi := hhi
  buf_wf := hwf
  buf_below := hbelow
  busy_not_done := nofun
  err_ok_until_done _ := rfl
  raced_busy := nofun
  held_idle _ := rfl

theorem State.resetEvent_inv {s : State} (hold : Nat) (hs : s.Inv) : (s.resetEvent hold).Inv := by
  have hsize := State.abort_memSize s
  exact State.resetRegs_inv hold (hsize ▸ hs.size_lo) (hsize ▸ hs.size_hi) (State.wf_abort hs.buf_wf)
    (hsize ▸ State.below_abort hs.buf_below)

theorem State.powerOnEvent_inv {s : State} (contents : List Host.Cell) (hold : Nat) (hs : s.Inv) :
    (s.powerOnEvent contents hold).Inv :=
  { State.resetRegs_inv hold hs.size_lo hs.size_hi hs.buf_wf hs.buf_below with
    buf_wf := Memory.wf_loadBuf _ _
    buf_below := Memory.below_loadBuf _ _ }

theorem deliver_inv (inp : Input) {s : State} (hs : s.Inv) : (deliver inp s).1.Inv := by
  cases inp with
  | reset hold =>
    rw [deliver_event s rfl]
    exact State.resetEvent_inv hold hs
  | powerOn contents hold =>
    rw [deliver_event s rfl]
    exact State.powerOnEvent_inv contents hold hs
  | regWrite | regRead | bufWrite | bufRead | wait => exact (deliver_effect s rfl).inv hs

/-- Settles O51: the completion step and every input keep the invariant. -/
theorem stepKeepsInvariant : Obligations.StepKeepsInvariant := by
  intro s t hs h
  obtain ⟨-, hexec⟩ | ⟨-, rfl⟩ | ⟨inp, rest, -, -, rfl⟩ := step_cases h
  · exact exec_inv hs hexec
  · exact hs
  · have htick : s.tick.Inv := { hs with }
    exact { deliver_inv inp htick with }

end Sys2Proof.Machine
end

section
/-! PROOFS. Nothing the host can see depends on CTR, or on the latch while the engine is idle (R31, R32, R35): states
that are alike take the same answers and the same steps, and stay alike. -/

namespace Sys2Proof.Machine

/-! ### What alike states share -/

section alike

variable {s t : State} (h : s.Alike t)
include h

/-- What does not see the latch and CTR is the same of alike states. -/
theorem State.Alike.congr {α : Type} (f : State → α) (hf : ∀ u, f u.visible = f u) : f s = f t := by
  rw [← hf s, ← hf t, h.1]

theorem State.Alike.phase_eq : s.phase = t.phase := h.congr State.phase fun _ => rfl

theorem State.Alike.memSize_eq : s.memSize = t.memSize := h.congr State.memSize fun _ => rfl

theorem State.Alike.inputs_eq : s.inputs = t.inputs := h.congr State.inputs fun _ => rfl

theorem State.Alike.transcript_eq : s.transcript = t.transcript := h.congr State.transcript fun _ => rfl

theorem State.Alike.resetHold_eq : s.resetHold = t.resetHold := h.congr State.resetHold fun _ => rfl

theorem State.Alike.status_eq : s.status = t.status := h.congr State.status fun _ => rfl

theorem State.Alike.engineTurn_eq : s.engineTurn = t.engineTurn := h.congr State.engineTurn fun _ => rfl

/-- No register of the window shows the latch or CTR (R35). -/
theorem State.Alike.readReg_eq (r : RegName) : readReg s r = readReg t r :=
  h.congr (readReg · r) fun _ => by cases r <;> rfl

/-- While the engine is busy, alike states differ in CTR only. -/
theorem State.Alike.eq_of_busy (hbusy : s.phase = .busy) : t = { s with ctr := t.ctr } := by
  obtain ⟨hvisible, hlatch⟩ := h
  replace hlatch := hlatch hbusy
  cases s
  cases t
  simp_all [State.visible]

/-- Alike states have the same footprints while the engine is busy, and an idle engine has none. -/
theorem State.Alike.writeRaces_eq (a n : Nat) : s.writeRaces a n = t.writeRaces a n := by
  cases hphase : s.phase with
  | idle => rw [State.writeRaces_idle hphase, State.writeRaces_idle (h.phase_eq ▸ hphase)]
  | busy => rw [h.eq_of_busy hphase]; rfl

theorem State.Alike.readRaces_eq (a n : Nat) : s.readRaces a n = t.readRaces a n := by
  cases hphase : s.phase with
  | idle => rw [State.readRaces_idle hphase, State.readRaces_idle (h.phase_eq ▸ hphase)]
  | busy => rw [h.eq_of_busy hphase]; rfl

theorem State.Alike.hostReadBuf_eq (n a : Nat) : hostReadBuf s n a = hostReadBuf t n a := by
  have hbuf : s.buf = t.buf := h.congr State.buf fun _ => rfl
  have hdraws : s.draws = t.draws := h.congr State.draws fun _ => rfl
  rw [hostReadBuf, hostReadBuf, h.readRaces_eq, hbuf, hdraws]

/-- An update that neither reads nor writes the latch and CTR, and keeps the phase, keeps states alike. -/
theorem State.Alike.map (f : State → State) (hvisible : ∀ u, (f u).visible = (f u.visible).visible)
    (hphase : ∀ u, (f u).phase = u.phase) (hlatch : ∀ u, (f u).latch = u.latch) : (f s).Alike (f t) := by
  obtain ⟨hv, hl⟩ := h
  refine ⟨?_, fun hbusy => ?_⟩
  · rw [hvisible s, hvisible t, hv]
  · rw [hlatch, hlatch, hl (hphase s ▸ hbusy)]

/-! ### The host's inputs keep states alike -/

theorem State.Alike.tick : s.tick.Alike t.tick := h.map State.tick (fun _ => rfl) (fun _ => rfl) fun _ => rfl

theorem State.Alike.drawDelay : s.drawDelay.Alike t.drawDelay :=
  h.map State.drawDelay
    (fun u => by unfold State.drawDelay; cases hd : u.delays <;> simp [State.visible, hd])
    State.drawDelay_phase State.drawDelay_latch

/-- An accepted command finds the same arguments in both states. -/
theorem State.Alike.latchCommand (w : Word) : (s.latchCommand w).Alike (t.latchCommand w) :=
  ⟨congrArg (fun u => (u.latchCommand w).visible) h.1, fun _ => congrArg (fun u => (u.latchCommand w).latch) h.1⟩

theorem State.Alike.issue (w : Word) : (s.issue w).Alike (t.issue w) := by
  cases hphase : s.phase with
  | idle =>
    rw [State.issue_idle w hphase, State.issue_idle w (h.phase_eq ▸ hphase)]
    exact (h.latchCommand w).drawDelay
  | busy =>
    rw [State.issue_busy w hphase, State.issue_busy w (h.phase_eq ▸ hphase)]
    exact h.map State.flagsDropped (fun _ => rfl) (fun _ => rfl) fun _ => rfl

theorem State.Alike.writeReg_alike (r : RegName) (v : Word) : (writeReg r v s).Alike (writeReg r v t) := by
  cases r with
  | cmd => exact h.issue v
  | status | arg i => exact h.map (writeReg _ v) (fun _ => rfl) (fun _ => rfl) fun _ => rfl
  | result | reserved => exact h

theorem State.Alike.hostWriteBuf_alike (n a : Nat) (v : Word) :
    (hostWriteBuf n a v s).Alike (hostWriteBuf n a v t) := by
  rw [hostWriteBuf, hostWriteBuf, h.writeRaces_eq]
  exact h.map
    (fun u => { u with buf := writeBytes u.buf a (bytesBE n v.toNat), raced := u.raced || t.writeRaces a n })
    (fun _ => rfl) (fun _ => rfl) fun _ => rfl

theorem State.Alike.drawRead_alike (n a : Nat) : (drawRead n a s).Alike (drawRead n a t) := by
  rw [drawRead, drawRead, h.readRaces_eq]
  split
  · exact h.map (fun u => { u with draws := u.draws + 1 }) (fun _ => rfl) (fun _ => rfl) fun _ => rfl
  · exact h

theorem State.Alike.abort : s.abort.Alike t.abort := by
  cases hphase : s.phase with
  | idle =>
    rw [State.abort_idle hphase, State.abort_idle (h.phase_eq ▸ hphase)]
    exact h
  | busy =>
    rw [h.eq_of_busy hphase]
    simp only [State.abort, hphase]
    exact ⟨rfl, fun _ => rfl⟩

theorem State.Alike.resetRegs (hold : Nat) : (s.resetRegs hold).Alike (t.resetRegs hold) :=
  ⟨congrArg (fun u => (u.resetRegs hold).visible) h.1, nofun⟩

theorem State.Alike.powerOnEvent (contents : List Host.Cell) (hold : Nat) :
    (s.powerOnEvent contents hold).Alike (t.powerOnEvent contents hold) :=
  ⟨congrArg (fun u => (u.powerOnEvent contents hold).visible) h.1, nofun⟩

/-- An input answers the same in alike states and keeps them alike. -/
theorem State.Alike.transact_alike (inp : Input) :
    (transact inp s).1.Alike (transact inp t).1 ∧ (transact inp s).2 = (transact inp t).2 := by
  cases inp with
  | regWrite width off v =>
    simp only [transact]
    split
    · exact ⟨h.writeReg_alike _ v, rfl⟩
    · exact ⟨h, rfl⟩
  | regRead width off =>
    simp only [transact]
    split
    · exact ⟨h, congrArg Reply.value (h.readReg_eq _)⟩
    · exact ⟨h, rfl⟩
  | bufWrite width addr v =>
    simp only [transact, h.memSize_eq]
    split
    · exact ⟨h.hostWriteBuf_alike width addr v, rfl⟩
    · exact ⟨h, rfl⟩
  | bufRead width addr =>
    simp only [transact, h.memSize_eq]
    split
    · exact ⟨h.drawRead_alike width addr, congrArg Reply.value (h.hostReadBuf_eq width addr)⟩
    · exact ⟨h, rfl⟩
  | wait => exact ⟨h, congrArg Reply.value h.status_eq⟩
  | reset hold => exact ⟨h.abort.resetRegs hold, rfl⟩
  | powerOn contents hold => exact ⟨h.powerOnEvent contents hold, rfl⟩

theorem State.Alike.deliver_alike (inp : Input) :
    (deliver inp s).1.Alike (deliver inp t).1 ∧ (deliver inp s).2 = (deliver inp t).2 := by
  have hignores : s.ignores inp = t.ignores inp := h.congr (fun u => u.ignores inp) fun _ => rfl
  simp only [deliver, hignores]
  split
  · have hheld := h.map (fun u => { u with resetHold := u.resetHold - 1 }) (fun _ => rfl) (fun _ => rfl) fun _ => rfl
    exact ⟨hheld, rfl⟩
  · exact h.transact_alike inp

theorem State.Alike.hostTakes_alike (inp : Input) (rest : List Input) :
    (hostTakes inp rest s).Alike (hostTakes inp rest t) := by
  obtain ⟨hstate, hreply⟩ := h.tick.deliver_alike inp
  have hwaits : s.keepsWaiting inp = t.keepsWaiting inp := h.congr (fun u => u.keepsWaiting inp) fun _ => rfl
  rw [hostTakes, hostTakes, hwaits, hreply, h.transcript_eq]
  exact hstate.map (fun u => { u with
    inputs := if t.keepsWaiting inp then inp :: rest else rest
    transcript := (inp, (deliver inp t.tick).2) :: t.transcript }) (fun _ => rfl) (fun _ => rfl) fun _ => rfl

theorem State.Alike.hostStep_alike : (hostStep s).Alike (hostStep t) := by
  cases hin : s.inputs with
  | nil =>
    rw [hostStep_nil hin, hostStep_nil (h.inputs_eq ▸ hin)]
    exact h
  | cons inp rest =>
    rw [hostStep_cons hin, hostStep_cons (h.inputs_eq ▸ hin)]
    exact h.hostTakes_alike inp rest

end alike

/-! ### The completion step does not see the CTR that it finds -/

/-- No command reads the CTR that it finds: KGEN loads it first. -/
theorem commandBody_ctr_unread (x : Vector Word 6) (i : Instr) (s : State) (c : Counter) :
    ∃ c', commandBody x i { s with ctr := c } = { commandBody x i s with ctr := c' } := by
  cases i with
  | kgen => exact ⟨(commandBody x .kgen s).ctr, by simp only [commandBody, kgenBody, kgenStart]⟩
  | cadd => exact ⟨c, by simp only [commandBody, caddBody]⟩
  | xapply => exact ⟨c, by simp only [commandBody, xapplyBody]⟩
  | nm16 => exact ⟨c, by simp only [commandBody, nm16Body]⟩
  | nop | hgen | illegal w => exact ⟨c, rfl⟩

theorem State.settleRace_ctr_unread (sp : Span) (s : State) (c : Counter) :
    State.settleRace sp { s with ctr := c } = { s.settleRace sp with ctr := c } := by
  simp only [State.settleRace]
  split <;> rfl

theorem State.concludeCommand_ctr_unread (i : Instr) (s : State) (c : Counter) :
    ∃ c', State.concludeCommand i { s with ctr := c } = { s.concludeCommand i with ctr := c' } := by
  obtain ⟨c', hbody⟩ := commandBody_ctr_unread s.latch.x i s c
  unfold State.concludeCommand
  cases checkError s.memSize s.latch.x i with
  | some e => exact ⟨c, rfl⟩
  | none =>
    refine ⟨c', ?_⟩
    rw [State.conclude_none, State.conclude_none, hbody, State.settleRace_ctr_unread]
    rfl

theorem exec_ctr_unread (i : Instr) (s : State) (c : Counter) :
    ∃ u c', exec i s = .next u ∧ exec i { s with ctr := c } = .next { u with ctr := c' } := by
  obtain ⟨c', hend⟩ := State.concludeCommand_ctr_unread i s c
  by_cases hk : i = .kgen
  · subst hk
    refine ⟨_, idleCtr (s.concludeCommand .kgen).draws, exec_kgen s, ?_⟩
    rw [exec_kgen, hend]
    rfl
  · exact ⟨_, c', exec_eq s hk, by rw [exec_eq _ hk, hend]⟩

/-- Settles O53: a completion step finds alike states to differ in CTR only, which no command reads, and the host's
inputs keep states alike. -/
theorem hiddenStateIsNeverSeen : Obligations.HiddenStateIsNeverSeen := by
  intro s t h
  cases hturn : s.engineTurn with
  | true =>
    obtain ⟨hbusy, -⟩ := (State.engineTurn_iff s).1 hturn
    obtain ⟨u, c, hs, ht⟩ := exec_ctr_unread s.latched s t.ctr
    have heq := h.eq_of_busy hbusy
    refine ⟨u, { u with ctr := c }, (step_engine hturn).trans hs, ?_, rfl, fun _ => rfl⟩
    rw [step_engine (h.engineTurn_eq ▸ hturn), heq]
    exact ht
  | false =>
    exact ⟨_, _, step_host hturn, step_host (h.engineTurn_eq ▸ hturn), h.hostStep_alike⟩

end Sys2Proof.Machine
end

section
/-! PROOFS. What the host reads and writes in the register window (R19 to R23, R28), the layout of STATUS (R23), and the
registers after power-on (R36). -/

namespace Sys2Proof.Machine

/-! ### One register access -/

section registerAccess

variable {s : State} {rest : List Input} {off : Nat} {v : Word}

theorem readReg_tick (s : State) (r : RegName) : readReg s.tick r = readReg s r := by cases r <;> rfl

/-- A served register read answers the register's value and changes nothing (R98). -/
theorem step_regRead (hturn : s.engineTurn = false) (hr : s.resetHold = 0) (hin : s.inputs = .regRead 8 off :: rest)
    (hserves : regPortServes 8 off = true) :
    step s = .next (s.answered (.regRead 8 off) (.value (readReg s (regAt off))) rest) := by
  rw [step_takes hin hturn, hostTakes_served rest hr (by simp), transact, if_pos hserves, readReg_tick]
  rfl

/-- A served register write has the effect of the write and is acknowledged. -/
theorem step_regWrite (hturn : s.engineTurn = false) (hr : s.resetHold = 0)
    (hin : s.inputs = .regWrite 8 off v :: rest) (hserves : regPortServes 8 off = true) :
    step s = .next { writeReg (regAt off) v s.tick with
      inputs := rest, transcript := (.regWrite 8 off v, .ack) :: s.transcript } := by
  rw [step_takes hin hturn, hostTakes_served rest hr (by simp), transact, if_pos hserves]

end registerAccess

theorem regPortServes_arg (i : Fin 6) : regPortServes 8 (0x20 + 8 * i.val) = true := by
  rw [regPortServes_iff]
  omega

/-- Settles O15: CMD, STATUS, RESULT and each ARG register at its offset. -/
theorem registerReads : Obligations.RegisterReads := by
  intro s rest off v hturn hr hin hv
  obtain ⟨rfl, rfl⟩ | ⟨rfl, rfl⟩ | ⟨rfl, rfl⟩ | ⟨i, rfl, rfl⟩ := hv
  · exact step_regRead hturn hr hin rfl
  · exact step_regRead hturn hr hin rfl
  · exact step_regRead hturn hr hin rfl
  · have hstep := step_regRead hturn hr hin (regPortServes_arg i)
    rwa [regAt_arg] at hstep

/-- Settles O16: the two kinds of write, at the offsets of their registers. -/
theorem argAndResultWrites : Obligations.ArgAndResultWrites := by
  intro s rest v hturn hr
  refine ⟨fun i hin => ?_, fun hin => step_regWrite hturn hr hin rfl⟩
  have hstep := step_regWrite hturn hr hin (regPortServes_arg i)
  rwa [regAt_arg] at hstep

/-- Settles O17: bit 2 of the value decides whether DROPPED is cleared. -/
theorem statusWriteClearsDropped : Obligations.StatusWriteClearsDropped := by
  intro s rest v hturn hr hin
  have hdropped : (if v.getLsbD 2 then false else s.dropped) = (s.dropped && !v.getLsbD 2) := by
    cases v.getLsbD 2 <;> simp
  rw [hdropped]
  exact step_regWrite hturn hr hin rfl

/-! ### STATUS -/

/-- Bit j of STATUS, by the field that holds it (R23). -/
theorem State.getLsbD_status (s : State) (j : Nat) :
    s.status.getLsbD j =
      if j = 0 then s.busy
      else if j = 1 then s.done
      else if j = 2 then s.dropped
      else if j < 8 then false
      else s.err.toByte.getLsbD (j - 8) := by
  simp only [State.status, BitVec.getLsbD_append, BitVec.getLsbD_ofBool]
  split_ifs <;> grind -- each part's own bound on j against the chain's

/-- The bits of STATUS at and above 8 hold ERR (R23). -/
theorem State.extractLsb'_status (s : State) : s.status.extractLsb' 8 8 = s.err.toByte := by
  refine BitVec.eq_of_getLsbD_eq fun j hj => ?_
  rw [BitVec.getLsbD_extractLsb', State.getLsbD_status, if_neg (by omega), if_neg (by omega), if_neg (by omega),
    if_neg (by omega), Nat.add_sub_cancel_left, decide_eq_true hj, Bool.true_and]

/-- STATUS reads 0 while the engine is idle with every field clear. -/
theorem State.status_eq_zero {s : State} (hphase : s.phase = .idle) (hdone : s.done = false)
    (hdropped : s.dropped = false) (herr : s.err = .ok) : s.status = 0 := by
  rw [State.status, (State.busy_false_iff s).2 hphase, hdone, hdropped, herr]
  decide

/-- Settles O18: bit by bit; that BUSY and DONE exclude each other is the invariant's. -/
theorem statusLayout : Obligations.StatusLayout := by
  intro s
  have hbusy : s.status.getLsbD 0 = s.busy := s.getLsbD_status 0
  have hdone : s.status.getLsbD 1 = s.done := s.getLsbD_status 1
  refine ⟨hbusy, hdone, s.getLsbD_status 2, fun j hlo hhi => ?_, ?_, fun j hj => ?_, fun hinv => ?_⟩
  · rw [State.getLsbD_status, if_neg (by omega), if_neg (by omega), if_neg (by omega), if_pos (by omega)]
  · rw [State.extractLsb'_status]
    cases s.err <;> rfl
  · rw [State.getLsbD_status, if_neg (by omega), if_neg (by omega), if_neg (by omega), if_neg (by omega)]
    exact BitVec.getLsbD_of_ge _ _ (by omega)
  · rw [hbusy, hdone, State.busy_iff]
    rintro ⟨hphase, hset⟩
    simp [hinv.busy_not_done hphase] at hset

/-- Settles O46: the fields as `State.powerOn` gives them. -/
theorem powerOnRegisters : Obligations.PowerOnRegisters := by
  intro n m
  have hargs : ∀ i : Fin 6, zeroArgs[i] = 0 := by decide
  exact ⟨hargs, rfl, State.status_eq_zero rfl rfl rfl rfl, rfl, rfl, rfl⟩

end Sys2Proof.Machine
end

section
/-! PROOFS. The host's accesses to the register port and to BUF that change nothing, what a served BUF write stores
(R40 to R42, R126), and what the STATUS reads of a busy command have shown (R49, R133). -/

namespace Sys2Proof.Machine

/-! ### One access to a port -/

section portAccess

variable {s : State} {rest : List Input} {width off n a : Nat} {v : Word}

/-- An access that leaves the machine as it finds it does nothing but answer. -/
theorem step_answers {inp : Input} {r : Reply} (hturn : s.engineTurn = false) (hr : s.resetHold = 0)
    (hin : s.inputs = inp :: rest) (hw : inp ≠ .wait) (ht : transact inp s.tick = (s.tick, r)) :
    step s = .next (s.answered inp r rest) := by
  rw [step_takes hin hturn, hostTakes_served rest hr hw, ht]
  rfl

theorem transact_regRead_refused (h : regPortServes width off = false) :
    transact (.regRead width off) s = (s, .busError) := by simp [transact, h]

theorem transact_regWrite_refused (h : regPortServes width off = false) :
    transact (.regWrite width off v) s = (s, .busError) := by simp [transact, h]

theorem transact_bufRead_refused (h : bufPortServes s.memSize n a = false) :
    transact (.bufRead n a) s = (s, .busError) := by simp [transact, h]

theorem transact_bufWrite_refused (h : bufPortServes s.memSize n a = false) :
    transact (.bufWrite n a v) s = (s, .busError) := by simp [transact, h]

/-- A BUF read that meets no busy command's write footprint returns the bytes and changes nothing (R40, R48). -/
theorem transact_bufRead_quiet (hserves : bufPortServes s.memSize n a = true) (hrace : s.readRaces a n = false) :
    transact (.bufRead n a) s = (s, .value (BitVec.ofNat 64 (be (readBytes s.buf a n)))) := by
  simp [transact, hserves, drawRead, hostReadBuf, hrace]

/-- A served BUF write has the effect of the write and is acknowledged. -/
theorem step_bufWrite (hturn : s.engineTurn = false) (hr : s.resetHold = 0) (hin : s.inputs = .bufWrite n a v :: rest)
    (hserves : bufPortServes s.memSize n a = true) :
    step s = .next { hostWriteBuf n a v s.tick with
      inputs := rest, transcript := (.bufWrite n a v, .ack) :: s.transcript } := by
  rw [step_takes hin hturn, hostTakes_served rest hr (by simp), transact, State.tick_memSize, if_pos hserves]

end portAccess

/-- Settles O14: the port serves no other access, and the offsets of the second part are reserved slots. -/
theorem registerPort : Obligations.RegisterPort := by
  intro s rest width off v hturn hr
  refine ⟨fun hbad => ?_, fun hwidth halign hoff => ?_⟩
  · have hrefused : regPortServes width off = false := by simpa [regPortServes] using hbad
    exact ⟨fun hin => step_answers hturn hr hin (by simp) (transact_regRead_refused hrefused),
      fun hin => step_answers hturn hr hin (by simp) (transact_regWrite_refused hrefused)⟩
  · subst hwidth
    have hserves : regPortServes 8 off = true := (regPortServes_iff _ _).2 ⟨rfl, halign, by omega⟩
    have hslot : regAt off = .reserved := regAt_reserved (hoff.imp_right And.left)
    refine ⟨fun hin => ?_, fun hin => ?_⟩
    · have hstep := step_regRead hturn hr hin hserves
      rwa [hslot] at hstep
    · have hstep := step_regWrite hturn hr hin hserves
      rwa [hslot] at hstep

/-- Settles O21: the port serves no such access. -/
theorem bufPortRefuses : Obligations.BufPortRefuses := by
  intro s rest n a v hturn hr hbad
  have hrefused : bufPortServes s.tick.memSize n a = false := by
    rw [← Bool.not_eq_true, bufPortServes_iff, State.tick_memSize]
    rintro ⟨hwidth, halign, hfits⟩
    obtain hbad | hbad | hbad := hbad
    · exact hbad hwidth
    · exact hbad halign
    · exact absurd hfits (Nat.not_le.2 hbad)
  exact ⟨fun hin => step_answers hturn hr hin (by simp) (transact_bufRead_refused hrefused),
    fun hin => step_answers hturn hr hin (by simp) (transact_bufWrite_refused hrefused)⟩

/-- A stored sequence reads back. -/
theorem readBytes_writeBytes {m : Memory} (a : Nat) (l : List Byte) (h : Memory.wf m = true) :
    readBytes (writeBytes m a l) a l.length = l := by
  refine List.ext_getElem (length_readBytes _ _ _) fun j h1 h2 => ?_
  rw [getElem_readBytes, readByte_writeBytes_inside h h2]

/-- Settles O20: without a race the read returns the bytes, and the write stores its bytes, keeps the others, and sets
no flag. -/
theorem bufPort : Obligations.BufPort := by
  intro s rest n a v hwf hturn hr hwidth halign hfits
  have hserves : bufPortServes s.memSize n a = true := (bufPortServes_iff _ _ _).2 ⟨hwidth, halign, hfits⟩
  refine ⟨fun hin hrace => ?_, fun hin hrace => ?_⟩
  · exact step_answers hturn hr hin (by simp) (transact_bufRead_quiet hserves hrace)
  · refine ⟨writeBytes s.buf a (bytesBE n v.toNat), ?_, ?_, fun b hb => ?_⟩
    · have hraced : (s.tick.raced || s.tick.writeRaces a n) = s.raced := by
        rw [show s.tick.writeRaces a n = false from hrace, Bool.or_false, State.tick_raced]
      rw [step_bufWrite hturn hr hin hserves, hostWriteBuf, hraced]
      rfl
    · simpa using readBytes_writeBytes a (bytesBE n v.toNat) hwf
    · exact readByte_writeBytes_outside hwf (by rwa [length_bytesBE])

/-! ### What the STATUS reads of a busy command have shown -/

/-- The input reads STATUS, if its access is served. -/
def ReadsStatus (inp : Input) : Prop := inp = .wait ∨ ∃ width, inp = .regRead width 0x08

/-- Where no read has shown BUSY = 0 since the last issue, only a read that shows it now changes that. -/
theorem shownIdle_cons_eq_false {inp : Input} {r : Reply} {tr : List (Input × Reply)} (h : shownIdle tr = false)
    (hr : ReadsStatus inp → replyShowsIdle r = false) : shownIdle ((inp, r) :: tr) = false := by
  cases inp with
  | wait => simp [shownIdle, h, hr (.inl rfl)]
  | regRead width off =>
    by_cases hoff : off = 0x08
    · subst hoff
      simp [shownIdle, h, hr (.inr ⟨width, rfl⟩)]
    · simp [shownIdle, h, hoff]
  | regWrite | bufWrite | bufRead | reset | powerOn => simp [shownIdle, h]

/-- A served command issue is the last one. -/
theorem shownIdle_issue (width : Nat) (w : Word) (tr : List (Input × Reply)) :
    shownIdle ((.regWrite width 0x00 w, .ack) :: tr) = false := by simp [shownIdle]

/-- STATUS of a busy engine does not show BUSY = 0 (R24). -/
theorem replyShowsIdle_status {s : State} (h : s.phase = .busy) : replyShowsIdle (.value s.status) = false := by
  have hbit := s.getLsbD_status 0
  rw [if_pos rfl, (State.busy_iff s).2 h] at hbit
  rw [replyShowsIdle, hbit, Bool.not_true]

/-- No input that reads STATUS while the engine is busy is answered with BUSY = 0. -/
theorem deliver_readsStatus {inp : Input} {s : State} (hbusy : s.phase = .busy) (hinp : ReadsStatus inp) :
    replyShowsIdle (deliver inp s).2 = false := by
  unfold deliver
  split
  · rfl
  · obtain rfl | ⟨width, rfl⟩ := hinp
    · exact replyShowsIdle_status hbusy
    · simp only [transact]
      split
      · exact replyShowsIdle_status hbusy
      · rfl

/-- CMD stands at offset 0 alone (R19). -/
theorem eq_zero_of_regAt_cmd {off : Nat} (h : regAt off = .cmd) : off = 0 := by
  by_contra hoff
  rw [regAt, if_neg hoff] at h
  split_ifs at h

/-- A register write that starts the engine is a write to CMD (R92). -/
theorem writeReg_starts {r : RegName} {v : Word} {s : State} (hidle : s.phase = .idle)
    (hbusy : (writeReg r v s).phase = .busy) : r = .cmd := by
  cases r with
  | cmd => rfl
  | status | result | arg i | reserved => exact nomatch hidle.symm.trans hbusy

/-- An input that finds the engine idle and leaves it busy is a served command issue (R92). -/
theorem deliver_starts {inp : Input} {s : State} (hidle : s.phase = .idle) (hbusy : (deliver inp s).1.phase = .busy) :
    ∃ width w, inp = .regWrite width 0x00 w ∧ (deliver inp s).2 = .ack := by
  revert hbusy
  unfold deliver
  split
  · exact fun hbusy => nomatch hidle.symm.trans hbusy
  · cases inp with
    | regWrite width off v =>
      simp only [transact]
      split
      · intro hbusy
        obtain rfl := eq_zero_of_regAt_cmd (writeReg_starts hidle hbusy)
        exact ⟨width, v, rfl, rfl⟩
      · exact fun hbusy => nomatch hidle.symm.trans hbusy
    | regRead width off | bufWrite width addr v =>
      simp only [transact]
      split <;> exact fun hbusy => nomatch hidle.symm.trans hbusy
    | bufRead width addr =>
      simp only [transact]
      split
      · exact fun hbusy => nomatch hidle.symm.trans ((drawRead_phase _ _ _).symm.trans hbusy)
      · exact fun hbusy => nomatch hidle.symm.trans hbusy
    | wait => exact fun hbusy => nomatch hidle.symm.trans hbusy
    | reset hold | powerOn contents hold => exact nofun

/-- The answer of the delivered input is the newest of the transcript. -/
theorem hostTakes_transcript (inp : Input) (rest : List Input) (s : State) :
    (hostTakes inp rest s).transcript = (inp, (deliver inp s.tick).2) :: s.transcript := rfl

/-- Settles O13: a completion leaves the engine idle; an engine that the host finds idle and leaves busy has just been
issued a command; and one that stays busy shows BUSY = 1 to every read. -/
theorem shownIdleMeansComplete : Obligations.ShownIdleMeansComplete := by
  intro s t hs h hbusy
  obtain ⟨-, hexec⟩ | ⟨-, rfl⟩ | ⟨inp, rest, -, -, rfl⟩ := step_cases h
  · obtain ⟨e, l, n, r, c, m, rfl⟩ := exec_frame hexec
    cases hbusy
  · exact hs hbusy
  · rw [hostTakes_transcript]
    cases hphase : s.phase with
    | idle =>
      obtain ⟨width, w, rfl, hack⟩ := deliver_starts (s := s.tick) hphase hbusy
      rw [hack]
      exact shownIdle_issue width w s.transcript
    | busy => exact shownIdle_cons_eq_false (hs hphase) (deliver_readsStatus (s := s.tick) hphase)

end Sys2Proof.Machine
end

section
/-! PROOFS. The footprints of the commands (R45, R46): no byte outside the write footprint changes, and what a command
does depends on the bytes of its read footprint alone. -/

namespace Sys2Proof.Machine

/-! ### The write footprint -/

/-- The pseudocode of a command that passes its checks writes no byte outside its write footprint. -/
theorem readByte_commandBody_outside {x : Vector Word 6} {i : Instr} {s : State} {n b : Nat}
    (hcheck : checkError n x i = none) (h : Memory.wf s.buf = true) (hb : (writeSpan n x i).contains b = false) :
    readByte (commandBody x i s).buf b = readByte s.buf b := by
  rw [Span.contains_false_iff, writeSpan_of_ok hcheck] at hb
  cases i with
  | cadd =>
    rw [commandBody, caddBody_buf]
    exact readByte_storeCounter_outside _ h hb
  | kgen =>
    obtain ⟨-, hsize, -⟩ := (kgenError_eq_none _ _).1 hcheck
    have hblocks := sixteen_mul_blocks hsize
    simp only [KgenArgs.span] at hb
    rw [commandBody, kgenBody, readByte_kgenLoop_outside (by rwa [kgenStart_buf]) (by omega), kgenStart_buf]
  | xapply =>
    rw [commandBody, xapplyBody_buf]
    exact readByte_xorLoop_outside h hb
  | nop | nm16 | hgen | illegal w => rfl

theorem State.readByte_concludeCommand_outside {i : Instr} {s : State} {b : Nat} (h : Memory.wf s.buf = true)
    (hb : (writeSpan s.memSize s.latch.x i).contains b = false) :
    readByte (s.concludeCommand i).buf b = readByte s.buf b := by
  unfold State.concludeCommand
  cases hcheck : checkError s.memSize s.latch.x i with
  | some e => rfl
  | none =>
    exact State.readByte_conclude_outside _ _ _ _ (wf_commandBody _ i h) (readByte_commandBody_outside hcheck h hb)
      fun _ => hb

/-- A completion step changes no byte outside the command's write footprint, race or no race (R45, R46). -/
theorem readByte_exec_outside {i : Instr} {s t : State} {b : Nat} (h : Memory.wf s.buf = true)
    (hexec : exec i s = .next t) (hb : (writeSpan s.memSize s.latch.x i).contains b = false) :
    readByte t.buf b = readByte s.buf b := by
  obtain ⟨-, rfl⟩ | ⟨-, rfl⟩ := exec_cases hexec
  · rw [State.forgetCtr_buf]
    exact State.readByte_concludeCommand_outside h hb
  · exact State.readByte_concludeCommand_outside h hb

/-- ERR after a completion step is the code of the first check that fails, or 0x00 (R93, R106). -/
theorem exec_err {i : Instr} {s t : State} (h : exec i s = .next t) :
    t.err = ((checkError s.memSize s.latch.x i).map CmdError.code).getD .ok := by
  obtain ⟨-, rfl⟩ | ⟨-, rfl⟩ := exec_cases h
  · rw [State.forgetCtr_err]
    exact State.conclude_err _ _ _ _
  · exact State.conclude_err _ _ _ _

/-- Settles O26: the statement's intervals are the write footprint, which is empty if a check fails. -/
theorem commandsWriteOnlyTheirFootprint : Obligations.CommandsWriteOnlyTheirFootprint := by
  intro i s t hwf hexec b hb
  refine readByte_exec_outside hwf hexec ?_
  have herr := exec_err hexec
  cases hcheck : checkError s.memSize s.latch.x i with
  | some e =>
    rw [writeSpan_of_error hcheck]
    exact Span.contains_empty b
  | none =>
    rw [hcheck] at herr
    replace hb := fun hin => hb ⟨herr, hin⟩
    rw [← Bool.not_eq_true, Span.contains_iff, writeSpan_of_ok hcheck]
    rintro ⟨hlo, hhi⟩
    cases i with
    | cadd => exact hb ⟨hlo, hhi⟩
    | kgen | xapply =>
      refine hb ⟨hlo, ?_⟩
      simp only [KgenArgs.span, XapplyArgs.span, kgenArgs, xapplyArgs] at hlo hhi
      omega
    | nop | nm16 | hgen | illegal w => exact absurd hhi (Nat.not_lt_zero b)

/-! ### The read footprint -/

/-- Two memories hold the same bytes in a span. -/
def Memory.AgreeOn (sp : Span) (m m' : Memory) : Prop := ∀ b, sp.contains b = true → readByte m b = readByte m' b

theorem Memory.agreeOn_empty (a : Nat) (m m' : Memory) : Memory.AgreeOn ⟨a, 0⟩ m m' := by
  intro b hb
  rw [Span.contains_iff] at hb
  exact absurd hb.2 (Nat.not_lt.2 hb.1)

/-- After the same write two memories agree at an address that is written or at which they agreed before. -/
theorem readByte_writeBytes_congr {m m' : Memory} {a b : Nat} (l : List Byte) (h : Memory.wf m = true)
    (h' : Memory.wf m' = true) (hb : b < a ∨ a + l.length ≤ b → readByte m b = readByte m' b) :
    readByte (writeBytes m a l) b = readByte (writeBytes m' a l) b := by
  by_cases hout : b < a ∨ a + l.length ≤ b
  · rw [readByte_writeBytes_outside h hout, readByte_writeBytes_outside h' hout, hb hout]
  · obtain ⟨j, rfl⟩ : ∃ j, b = a + j := ⟨b - a, by omega⟩
    rw [readByte_writeBytes_inside h (by omega), readByte_writeBytes_inside h' (by omega)]

theorem Memory.AgreeOn.writeByte_agree {sp : Span} {m m' : Memory} (hag : Memory.AgreeOn sp m m') (a : Nat) (v : Byte)
    (h : Memory.wf m = true) (h' : Memory.wf m' = true) :
    Memory.AgreeOn sp (writeByte m a v) (writeByte m' a v) :=
  fun b hb => readByte_writeBytes_congr [v] h h' fun _ => hag b hb

theorem Memory.agreeOn_fillSpan (f : Nat → Byte) (sp : Span) {m m' : Memory} (h : Memory.wf m = true)
    (h' : Memory.wf m' = true) : Memory.AgreeOn sp (fillSpan f sp m) (fillSpan f sp m') := by
  intro b hb
  rw [Span.contains_iff] at hb
  exact readByte_writeBytes_congr _ h h' fun hout => by rw [length_spanBytes] at hout; omega

/-- A counter stored next to a span where two memories agree extends it. -/
theorem Memory.AgreeOn.storeCounter_agree {a w : Nat} {m m' : Memory} (hag : Memory.AgreeOn ⟨a, w⟩ m m')
    (v : Counter) (h : Memory.wf m = true) (h' : Memory.wf m' = true) :
    Memory.AgreeOn ⟨a, w + 16⟩ (storeCounter m (a + w) v) (storeCounter m' (a + w) v) := by
  intro b hb
  rw [Span.contains_iff] at hb
  refine readByte_writeBytes_congr _ h h' fun hout => hag b ((Span.contains_iff _ _).2 ?_)
  simp only [Vector.length_toList] at hb hout ⊢
  omega

theorem Memory.AgreeOn.loadCounter_eq {a : Nat} {m m' : Memory} (hag : Memory.AgreeOn ⟨a, 16⟩ m m') :
    loadCounter m a = loadCounter m' a :=
  loadCounter_congr fun _ hj => hag _ ((Span.contains_iff _ _).2 ⟨Nat.le_add_right _ _, Nat.add_lt_add_left hj a⟩)

/-- The lanes of XAPPLY read source and key bytes alone. -/
theorem Memory.AgreeOn.xorLoop_agree {src key n k i : Nat} {m m' : Memory} (hsrc : Memory.AgreeOn ⟨src, n⟩ m m')
    (hkey : Memory.AgreeOn ⟨key, n⟩ m m') (h : Memory.wf m = true) (h' : Memory.wf m' = true) (hn : i + k ≤ n) :
    Memory.AgreeOn ⟨src, n⟩ (xorLoop src key k i m) (xorLoop src key k i m') := by
  induction k generalizing i m m' with
  | zero => exact hsrc
  | succ k ih =>
    have hlane (a : Nat) : Span.contains ⟨a, n⟩ (a + i) = true := by rw [Span.contains_iff]; dsimp only; omega
    rw [xorLoop, xorLoop, hsrc _ (hlane src), hkey _ (hlane key)]
    exact ih (hsrc.writeByte_agree _ _ h h') (hkey.writeByte_agree _ _ h h') (Memory.wf_writeByte _ _ h)
      (Memory.wf_writeByte _ _ h') (by omega)

/-- The strides of KGEN write CTR, and read no byte of BUF. -/
theorem kgenLoop_buf_unread {outAddr k w : Nat} {s : State} {m : Memory} (hag : Memory.AgreeOn ⟨outAddr, w⟩ m s.buf)
    (h : Memory.wf m = true) (hs : Memory.wf s.buf = true) :
    ∃ m', kgenLoop outAddr k w { s with buf := m } = { kgenLoop outAddr k w s with buf := m' } ∧
      Memory.AgreeOn ⟨outAddr, w + 16 * k⟩ m' (kgenLoop outAddr k w s).buf := by
  induction k generalizing w s m with
  | zero => exact ⟨m, rfl, hag⟩
  | succ k ih =>
    rw [kgenLoop, kgenLoop]
    generalize counterAdd s.ctr 1 = c
    obtain ⟨m', heq, hag'⟩ := ih (s := { s with buf := storeCounter s.buf (outAddr + w) s.ctr, ctr := c })
      (hag.storeCounter_agree s.ctr h hs) (Memory.wf_storeCounter _ _ h) (Memory.wf_storeCounter _ _ hs)
    exact ⟨m', heq, by rwa [show w + 16 * (k + 1) = w + 16 + 16 * k by omega]⟩

/-- On memories that agree on the read footprint the pseudocode of a command differs in BUF only, and agrees on the
write footprint. -/
theorem commandBody_reads {x : Vector Word 6} {i : Instr} {s : State} {m : Memory} {n : Nat}
    (hcheck : checkError n x i = none) (h : Memory.wf m = true) (hs : Memory.wf s.buf = true)
    (hag : ∀ sp ∈ readSpans n x i, Memory.AgreeOn sp m s.buf) :
    ∃ m', commandBody x i { s with buf := m } = { commandBody x i s with buf := m' } ∧
      Memory.AgreeOn (writeSpan n x i) m' (commandBody x i s).buf := by
  rw [readSpans_of_ok hcheck] at hag
  rw [writeSpan_of_ok hcheck]
  cases i with
  | cadd =>
    have hload := (hag (caddArgs x).span (by simp)).loadCounter_eq
    refine ⟨storeCounter m (caddArgs x).ctrAddr
      (counterAdd (loadCounter s.buf (caddArgs x).ctrAddr) (caddArgs x).delta), ?_, ?_⟩
    · simp only [commandBody, caddBody, hload]
    · rw [commandBody, caddBody_buf]
      exact (Memory.agreeOn_empty _ _ _).storeCounter_agree _ h hs
  | kgen =>
    obtain ⟨-, hsize, -⟩ := (kgenError_eq_none _ _).1 hcheck
    have hload := (hag ⟨(kgenArgs x).seedAddr, 16⟩ (by simp)).loadCounter_eq
    have hblocks : 0 + 16 * blocks (kgenArgs x).size = (nm16 (kgenArgs x).size).toNat := by
      have := sixteen_mul_blocks hsize
      omega
    obtain ⟨m', heq, hwrites⟩ := kgenLoop_buf_unread (k := blocks (kgenArgs x).size)
      (s := kgenStart (kgenArgs x) s) (Memory.agreeOn_empty (kgenArgs x).outAddr m _) h (by rwa [kgenStart_buf])
    refine ⟨m', ?_, ?_⟩
    · rw [commandBody, kgenBody, kgenBody, ← heq]
      simp only [kgenStart, hload]
    · rw [hblocks] at hwrites
      exact hwrites
  | xapply =>
    have hkey := hag ⟨(xapplyArgs x).keyStart, (xapplyArgs x).length.toNat⟩ (by simp)
    have hsrc := hag (xapplyArgs x).span (by simp)
    refine ⟨xorLoop (xapplyArgs x).srcAddr (xapplyArgs x).keyStart (xapplyArgs x).length.toNat 0 m,
      by simp only [commandBody, xapplyBody], ?_⟩
    rw [commandBody, xapplyBody_buf]
    exact hsrc.xorLoop_agree hkey h hs (Nat.zero_add _).le
  | nop | nm16 | hgen | illegal w => exact ⟨m, rfl, Memory.agreeOn_empty _ _ _⟩

/-- A race settles alike on all memories: it fills the same span with the same free bytes, or does nothing. -/
theorem State.settleRace_buf_unread {sp : Span} {s : State} {m : Memory} (hag : Memory.AgreeOn sp m s.buf)
    (h : Memory.wf m = true) (hs : Memory.wf s.buf = true) :
    ∃ m', State.settleRace sp { s with buf := m } = { s.settleRace sp with buf := m' } ∧
      Memory.AgreeOn sp m' (s.settleRace sp).buf := by
  simp only [State.settleRace]
  split
  · exact ⟨_, rfl, Memory.agreeOn_fillSpan _ sp h hs⟩
  · exact ⟨m, rfl, hag⟩

theorem State.concludeCommand_reads {i : Instr} {s : State} {m : Memory} (h : Memory.wf m = true)
    (hs : Memory.wf s.buf = true) (hag : ∀ sp ∈ readSpans s.memSize s.latch.x i, Memory.AgreeOn sp m s.buf) :
    ∃ m', State.concludeCommand i { s with buf := m } = { s.concludeCommand i with buf := m' } ∧
      Memory.AgreeOn (writeSpan s.memSize s.latch.x i) m' (s.concludeCommand i).buf := by
  unfold State.concludeCommand
  cases hcheck : checkError s.memSize s.latch.x i with
  | some e =>
    rw [writeSpan_of_error hcheck]
    exact ⟨m, rfl, Memory.agreeOn_empty _ _ _⟩
  | none =>
    obtain ⟨m₁, hbody, hag₁⟩ := commandBody_reads hcheck h hs hag
    have hwf₁ : Memory.wf m₁ = true := by
      have := wf_commandBody s.latch.x i (s := { s with buf := m }) h
      rwa [hbody] at this
    obtain ⟨m', hrace, hag'⟩ := State.settleRace_buf_unread hag₁ hwf₁ (wf_commandBody _ i hs)
    refine ⟨m', ?_, hag'⟩
    rw [State.conclude_none, State.conclude_none, hbody, hrace]
    rfl

/-- Settles O27: the shared end on both memories; the end of CTR's life, which KGEN adds, leaves BUF alone. -/
theorem commandsReadOnlyTheirFootprint : Obligations.CommandsReadOnlyTheirFootprint := by
  intro i s m hs h hag
  obtain ⟨m', hend, hwrites⟩ := State.concludeCommand_reads h hs hag
  by_cases hk : i = .kgen
  · subst hk
    refine ⟨_, m', exec_kgen s, ?_, hwrites⟩
    rw [exec_kgen, hend]
    rfl
  · exact ⟨_, m', exec_eq s hk, by rw [exec_eq _ hk, hend], hwrites⟩

end Sys2Proof.Machine
end

section
/-! PROOFS. Decoding and encoding of command words (R56 to R58), the expansions of the pseudo-instructions (R68), and
WAIT (R67). -/

namespace Sys2Proof

/-! ### The fields of a word -/

/-- RSV is the number of the bits 63:8 (R56). -/
theorem toNat_rsvOf (w : Word) : (rsvOf w).toNat = w.toNat / 256 := by
  rw [rsvOf, BitVec.extractLsb'_toNat, Nat.shiftRight_eq_div_pow]
  exact Nat.mod_eq_of_lt (by omega)

/-- OPC is the low byte (R56). -/
theorem toNat_opcOf (w : Word) : (opcOf w).toNat = w.toNat % 256 := by
  rw [opcOf, BitVec.extractLsb'_toNat, Nat.shiftRight_zero]

/-- A word is its two fields (R56). -/
theorem commandWord_rsvOf_opcOf (w : Word) : commandWord (rsvOf w) (opcOf w) = w :=
  (BitVec.extractLsb'_append_extractLsb'_eq_extractLsb' (by decide)).trans BitVec.extractLsb'_eq_self

/-! ### The decoder -/

theorem Instr.wf_illegal_iff (w : Word) :
    (Instr.illegal w).wf = true ↔ rsvOf w ≠ 0 ∨ 6 ≤ (opcOf w).toNat := decide_eq_true_iff

/-- The opcode map lists no OPC value from 0x06 on (R57). -/
theorem lookup_opcodeMap_of_reserved {opc : BitVec 8} (h : 6 ≤ opc.toNat) : opcodeMap.lookup opc = none := by
  rw [List.lookup_eq_none_iff]
  intro row hrow
  have hlisted : row.1.toNat < 6 := by revert row; decide
  rw [bne_iff_ne]
  rintro rfl
  omega

/-- A word with RSV 0 decodes to the row of its OPC (R58). -/
theorem decode_of_lookup {w : Word} {i : Instr} (hrsv : rsvOf w = 0) (hrow : opcodeMap.lookup (opcOf w) = some i) :
    decode w = i := by
  rw [decode, if_pos hrsv, hrow, Option.getD_some]

/-- A word that names no command is illegal: RSV is not 0, or OPC is reserved (R58). -/
theorem decode_illegal {w : Word} (h : (Instr.illegal w).wf = true) : decode w = .illegal w := by
  rw [decode]
  split
  · next hrsv =>
    have hopc := ((Instr.wf_illegal_iff w).1 h).resolve_left (not_not_intro hrsv)
    rw [lookup_opcodeMap_of_reserved hopc, Option.getD_none]
  · rfl

/-- Decoding undoes encoding: each command's word has its own row of the opcode map. -/
theorem decode_encode {i : Instr} (h : i.wf = true) : decode (encode i) = i := by
  cases i with
  | illegal w => exact decode_illegal h
  | nop | cadd | kgen | xapply | nm16 | hgen => exact decode_of_lookup rfl rfl

/-! ### The encoder -/

/-- Every OPC value below 0x06 is a command's (R57). -/
theorem exists_encode_eq_commandWord {opc : BitVec 8} (h : opc.toNat < 6) :
    ∃ i : Instr, i.wf = true ∧ encode i = commandWord 0 opc := by
  have hopc : opc = 0 ∨ opc = 1 ∨ opc = 2 ∨ opc = 3 ∨ opc = 4 ∨ opc = 5 := by bv_omega
  obtain rfl | rfl | rfl | rfl | rfl | rfl := hopc
  exacts [⟨.nop, rfl, rfl⟩, ⟨.cadd, rfl, rfl⟩, ⟨.kgen, rfl, rfl⟩, ⟨.xapply, rfl, rfl⟩, ⟨.nm16, rfl, rfl⟩,
    ⟨.hgen, rfl, rfl⟩]

/-- Every word is the word of a well-formed instruction: itself where it is illegal, else of the command that its OPC
names. -/
theorem exists_encode_eq (w : Word) : ∃ i : Instr, i.wf = true ∧ encode i = w := by
  by_cases hill : (Instr.illegal w).wf = true
  · exact ⟨.illegal w, hill, rfl⟩
  · rw [Instr.wf_illegal_iff, not_or, not_not, Nat.not_le] at hill
    obtain ⟨hrsv, hopc⟩ := hill
    rw [← commandWord_rsvOf_opcOf w, hrsv]
    exact exists_encode_eq_commandWord hopc

/-! ### The statements -/

/-- Settles O3: `decode_encode`. -/
theorem decodeOfEncode : Obligations.DecodeOfEncode := fun _ => decode_encode

/-- Settles O4: every word is an `encode i`, and decodes to that `i`. -/
theorem encodeOfDecode : Obligations.EncodeOfDecode := by
  intro w
  obtain ⟨i, hi, rfl⟩ := exists_encode_eq w
  rw [decode_encode hi]
  exact ⟨hi, rfl⟩

/-- Settles O2: every word is an `encode i`; each command's word stops the chain at its own OPC, and an illegal word
stops it at RSV or passes all six. -/
theorem everyWordDecodesByTheOpcodeMap : Obligations.EveryWordDecodesByTheOpcodeMap := by
  intro w
  obtain ⟨i, hi, rfl⟩ := exists_encode_eq w
  rw [decode_encode hi]
  cases i with
  | illegal w =>
    rw [Instr.wf_illegal_iff, ← BitVec.toNat_ne_iff_ne, toNat_rsvOf, toNat_opcOf] at hi
    rw [encode]
    by_cases hrsv : w.toNat / 256 ≠ 0
    · rw [if_pos hrsv]
    · have hopc : 6 ≤ w.toNat % 256 := hi.resolve_left hrsv
      repeat rw [if_neg (by omega)]
  | nop | cadd | kgen | xapply | nm16 | hgen => rfl

/-- Settles O1: the six commands' words are the encoder's, and the other three are illegal by OPC, by RSV and by RSV. -/
theorem specWordsDecode : Obligations.SpecWordsDecode :=
  ⟨decode_encode (i := .nop) rfl, decode_encode (i := .cadd) rfl, decode_encode (i := .kgen) rfl,
    decode_encode (i := .xapply) rfl, decode_encode (i := .nm16) rfl, decode_encode (i := .hgen) rfl,
    decode_illegal (by decide), decode_illegal (by decide), decode_illegal (by decide)⟩

end Sys2Proof

namespace Sys2Proof.Machine

/-! ### The pseudo-instructions -/

/-- `BWS` is one 1-byte write for each byte (R68). -/
theorem length_expandPseudo_bws (a : Nat) (bs : List Byte) : (expandPseudo (.bws a bs)).length = bs.length := by
  rw [expandPseudo, List.length_map, List.length_zipIdx]

/-- `BWS` writes byte j at address a + j (R68). -/
theorem getElem?_expandPseudo_bws (a : Nat) {bs : List Byte} {j : Nat} (h : j < bs.length) :
    (expandPseudo (.bws a bs))[j]? = some (.bufWrite 1 (a + j) (bs[j].setWidth 64)) := by
  rw [expandPseudo, List.getElem?_map, List.getElem?_zipIdx, List.getElem?_eq_getElem h, Option.map_some,
    Option.map_some, Nat.zero_add]

/-- `BRS` is one 1-byte read for each byte (R68). -/
theorem length_expandPseudo_brs (a n : Nat) : (expandPseudo (.brs a n)).length = n := by
  rw [expandPseudo, List.length_map, List.length_range]

/-- `BRS` reads byte j at address a + j (R68). -/
theorem getElem?_expandPseudo_brs (a : Nat) {n j : Nat} (h : j < n) :
    (expandPseudo (.brs a n))[j]? = some (.bufRead 1 (a + j)) := by
  rw [expandPseudo, List.getElem?_map, List.getElem?_range h, Option.map_some]

/-- Settles O54: the commands' expansions as lists, the byte strings' by length and element. -/
theorem pseudoExpansions : Obligations.PseudoExpansions :=
  ⟨rfl, fun _ _ => rfl, fun _ _ _ _ _ _ => rfl, fun _ _ _ _ _ _ => rfl, fun _ => rfl, rfl,
    fun a bs _ h => ⟨length_expandPseudo_bws a bs, getElem?_expandPseudo_bws a h⟩,
    fun a n _ h => ⟨length_expandPseudo_brs a n, getElem?_expandPseudo_brs a h⟩⟩

/-! ### WAIT -/

/-- With reset released WAIT goes on exactly while the engine is busy (R67). -/
theorem State.keepsWaiting_wait {s : State} (hr : s.resetHold = 0) : s.keepsWaiting .wait = s.busy := by
  simp [State.keepsWaiting, hr]

/-- With reset released WAIT is delivered as a read of STATUS (R67). -/
theorem deliver_wait {s : State} (hr : s.resetHold = 0) : deliver .wait s = (s, .value s.status) := by
  simp [deliver, State.ignores, transact, hr]

/-- Settles O12: WAIT reads STATUS, and stays the next input exactly while BUSY = 1. -/
theorem waitReadsStatusUntilIdle : Obligations.WaitReadsStatusUntilIdle := by
  intro s rest hin hturn hr
  have hread : deliver .wait s.tick = (s.tick, .value s.status) := deliver_wait hr
  rw [step_takes hin hturn, hostTakes, hread, State.keepsWaiting_wait hr]
  simp only [State.busy_iff]
  rfl

end Sys2Proof.Machine
end

section
/-! PROOFS. The counter family: the byte-serial add of R69 and R70 is addition modulo 2^128 (R71), the laws that follow
from it (R74), and CADD (R72). -/

namespace Sys2Proof.Machine

/-! ### One byte of a big-endian number -/

/-- Replacing byte j trades the old byte's term for the new byte's. -/
theorem be_set (l : List Byte) (j : Nat) (b : Byte) (h : j < l.length) :
    be (l.set j b) + l[j].toNat * 256 ^ (l.length - 1 - j) = be l + b.toNat * 256 ^ (l.length - 1 - j) := by
  induction l generalizing j with
  | nil => simp at h
  | cons c l ih =>
    cases j with
    | zero =>
      simp only [List.set_cons_zero, be, List.getElem_cons_zero, List.length_cons, Nat.add_sub_cancel, Nat.sub_zero]
      omega
    | succ j =>
      have hweight : (c :: l).length - 1 - (j + 1) = l.length - 1 - j := by simp only [List.length_cons]; omega
      have hj : j < l.length := by simpa using h
      have hrest := ih j hj
      simp only [List.set_cons_succ, be, List.getElem_cons_succ, List.length_set, hweight]
      omega

/-- Counters of one value are equal. -/
theorem Counter.ext_be {v w : Counter} (h : be v.toList = be w.toList) : v = w :=
  Vector.toList_inj.1 (be_injective (by simp) h)

theorem Counter.be_lt (v : Counter) : be v.toList < 2 ^ 128 := by
  simpa using Machine.be_lt v.toList

/-! ### The byte step -/

/-- The comparison of R69 sees the true carry: the byte sum wraps exactly where the new byte is below the old one. -/
theorem toNat_add_carry (old b : Byte) :
    (old + b).toNat + (if old + b < old then 256 else 0) = old.toNat + b.toNat := by
  have hold := old.isLt
  have hb := b.isLt
  simp only [BitVec.lt_def, BitVec.toNat_add]
  split <;> omega

/-- Adding a byte at q adds its weight, up to a carry that weighs as much as a 1 at q - 1. -/
theorem be_set_add (v : Counter) (q : Nat) (b : Byte) (h : q < 16) :
    be (v.set q (v[q] + b)).toList + (if v[q] + b < v[q] then 256 ^ (16 - q) else 0) =
      be v.toList + b.toNat * 256 ^ (15 - q) := by
  have hset := be_set v.toList q (v[q] + b) (by simpa using h)
  have hbyte := congrArg (· * 256 ^ (15 - q)) (toNat_add_carry v[q] b)
  have hweight : 256 * 256 ^ (15 - q) = 256 ^ (16 - q) := by rw [← pow_succ']; congr 1; omega
  simp only [Vector.length_toList, Vector.getElem_toList, Nat.add_one_sub_one] at hset
  simp only [add_mul, ite_mul, zero_mul, hweight] at hbyte
  rw [Vector.toList_set]
  omega

/-- The carry loop adds a 1 at q - 1; a carry out of index 0 is a multiple of 2^128. -/
theorem be_carryLeft (q : Nat) (h : q ≤ 16) (v : Counter) :
    be (carryLeft q h v).toList ≡ be v.toList + 256 ^ (16 - q) [MOD 2 ^ 128] := by
  induction q generalizing v with
  | zero => exact (Nat.add_mod_right _ _).symm
  | succ q ih =>
    have hadd := be_set_add v q 1 h
    have hone : (1 : Byte).toNat * 256 ^ (15 - q) = 256 ^ (16 - (q + 1)) := by
      rw [Nat.add_comm q 1, ← Nat.sub_sub]; exact one_mul _
    rw [← hone, ← hadd, carryLeft]
    split
    · exact ih _ _
    · exact Nat.ModEq.refl _

/-- R71: the byte step adds the byte with the weight of its position. -/
theorem be_addByteAt (v : Counter) (p : Fin 16) (b : Byte) :
    be (addByteAt v p b).toList ≡ be v.toList + b.toNat * 256 ^ (15 - p.val) [MOD 2 ^ 128] := by
  rw [← be_set_add v p b p.isLt, addByteAt]
  simp only [Fin.getElem_fin]
  split
  · exact be_carryLeft p _ _
  · exact Nat.ModEq.refl _

/-! ### The counter add -/

theorem deltaByte_eq (d : Word) (i : Fin 8) : deltaByte d i = BitVec.ofNat 8 (d.toNat / 256 ^ (7 - i.val)) := by
  have hshift : 2 ^ (56 - 8 * i.val) = 256 ^ (7 - i.val) := by
    rw [show 56 - 8 * i.val = 8 * (7 - i.val) by omega, pow_mul]; rfl
  rw [deltaByte, BitVec.extractLsb', Nat.shiftRight_eq_div_pow, hshift]

/-- The byte steps of any positions add the sum of their bytes' weights. -/
theorem be_foldl_addByteAt (d : Word) (l : List (Fin 8)) (v : Counter) :
    be (l.foldl (fun v i => addByteAt v ⟨8 + i.val, by omega⟩ (deltaByte d i)) v).toList ≡
      be v.toList + (l.map fun i => (deltaByte d i).toNat * 256 ^ (7 - i.val)).sum [MOD 2 ^ 128] := by
  induction l generalizing v with
  | nil => exact Nat.ModEq.refl _
  | cons i l ih =>
    have hstep := be_addByteAt v ⟨8 + i.val, by omega⟩ (deltaByte d i)
    rw [show 15 - (8 + i.val) = 7 - i.val by omega] at hstep
    rw [List.foldl_cons, List.map_cons, List.sum_cons, ← Nat.add_assoc]
    exact (ih _).trans (hstep.add_right _)

/-- Kept apart from the weights: the kernel must not count up to a power of 256 to see what the eight terms are. -/
theorem sum_map_deltaPositions (g : Fin 8 → Nat) :
    (([0, 1, 2, 3, 4, 5, 6, 7] : List (Fin 8)).map g).sum =
      g 0 + (g 1 + (g 2 + (g 3 + (g 4 + (g 5 + (g 6 + (g 7 + 0))))))) := by
  simp only [List.map_cons, List.map_nil, List.sum_cons, List.sum_nil]

/-- The eight delta bytes with their weights make up the delta: they are its big-endian bytes. -/
theorem sum_deltaByte (d : Word) :
    (([0, 1, 2, 3, 4, 5, 6, 7] : List (Fin 8)).map fun i => (deltaByte d i).toNat * 256 ^ (7 - i.val)).sum = d.toNat :=
  calc _ = be (bytesBE 8 d.toNat) := by
        rw [sum_map_deltaPositions]
        simp only [deltaByte_eq, bytesBE, be]
        rfl
    _ = d.toNat := (be_bytesBE 8 d.toNat).trans (Nat.mod_eq_of_lt d.isLt)

/-- R71: the counter add is addition modulo 2^128. -/
theorem be_counterAdd (v : Counter) (d : Word) : be (counterAdd v d).toList = (be v.toList + d.toNat) % 2 ^ 128 := by
  have hsum := be_foldl_addByteAt d [0, 1, 2, 3, 4, 5, 6, 7] v
  rw [sum_deltaByte, ← counterAdd] at hsum
  exact (Nat.mod_eq_of_lt (Counter.be_lt _)).symm.trans hsum

/-- Settles O35: the byte steps by the true carry, and the counter add as eight of them. -/
theorem counterAddIsAdditionModulo : Obligations.CounterAddIsAdditionModulo :=
  ⟨fun v p b => (Nat.mod_eq_of_lt (Counter.be_lt _)).symm.trans (be_addByteAt v p b), be_counterAdd⟩

/-! ### The laws of R74 -/

theorem counterAdd_zero (v : Counter) : counterAdd v 0 = v :=
  Counter.ext_be <| by rw [be_counterAdd]; exact Nat.mod_eq_of_lt (Counter.be_lt v)

theorem counterAdd_counterAdd (v : Counter) {d e : Word} (h : d.toNat + e.toNat < 2 ^ 64) :
    counterAdd (counterAdd v d) e = counterAdd v (d + e) :=
  Counter.ext_be <| by
    rw [be_counterAdd, be_counterAdd, be_counterAdd, BitVec.toNat_add_of_lt h, Nat.mod_add_mod, Nat.add_assoc]

/-- Sixteen bytes 0xFF are the number 2^128 - 1, so that 1 more is a multiple of 2^128. -/
theorem counterAdd_one_replicate : counterAdd (Vector.replicate 16 0xFF) 1 = zeroCounter :=
  Counter.ext_be <| by rw [be_counterAdd]; decide

/-- Settles O37: each law compares two counters of one value modulo 2^128. -/
theorem counterAddLaws : Obligations.CounterAddLaws := by
  refine ⟨counterAdd_zero, fun v d e => counterAdd_counterAdd v, fun v hv => ?_⟩
  have hones : v = Vector.replicate 16 0xFF := Vector.ext fun j hj => by simpa using hv ⟨j, hj⟩
  rw [hones, counterAdd_one_replicate]
  decide

/-! ### CADD -/

theorem caddError_eq_some {memSize : Nat} {a : CaddArgs} (h : memSize < a.ctrAddr + 16) :
    caddError memSize a = some .outOfBounds := by
  simp [caddError, firstError_cons, inBuf, h]

/-- A CADD that raises an error ends with its code and does nothing else (R106). -/
theorem exec_cadd_of_error {s : State} {e : CmdError} (h : caddError s.memSize (caddArgs s.latch.x) = some e) :
    exec .cadd s = .next (s.raiseError e) := by
  rw [exec_eq s (by decide), State.concludeCommand, checkError, h, State.conclude_some]

/-- A CADD that passes its check and meets no race stores the sum and completes with OK (R72, R93). -/
theorem exec_cadd_of_ok {s : State} {a : CaddArgs} (ha : caddArgs s.latch.x = a) (hraced : s.raced = false)
    (h : caddError s.memSize a = none) :
    exec .cadd s = .next { s.completed .ok (idleLatch s.draws) (s.draws + 1) with
      buf := storeCounter s.buf a.ctrAddr (counterAdd (loadCounter s.buf a.ctrAddr) a.delta) } := by
  rw [exec_eq s (by decide), State.concludeCommand, checkError, ha, h, State.conclude_none, commandBody, ha,
    State.settleRace_quiet _ (by rw [caddBody_raced, hraced]), caddBody]
  generalize counterAdd (loadCounter s.buf a.ctrAddr) a.delta = v
  rfl

/-- The sixteen bytes of a stored counter are the counter's, in order. -/
theorem readBytes_storeCounter {m : Memory} (a : Nat) (v : Counter) (h : Memory.wf m = true) :
    readBytes (storeCounter m a v) a 16 = v.toList := by
  rw [← toList_loadCounter, loadCounter_storeCounter a v h]

/-- Settles O38: the check decides between the stored sum and OUT_OF_BOUNDS. -/
theorem caddAddsInPlace : Obligations.CaddAddsInPlace := by
  refine ⟨decode_encode (i := .cadd) rfl, fun s hwf hraced => ⟨fun hfits => ?_, fun hout => ?_⟩⟩
  · have hexec := exec_cadd_of_ok (a := ⟨u64 s.latch.x[0], s.latch.x[1]⟩) rfl hraced
      ((caddError_eq_none _ _).2 hfits)
    have hsum := be_counterAdd (loadCounter s.buf (u64 s.latch.x[0])) s.latch.x[1]
    rw [toList_loadCounter] at hsum
    exact ⟨_, _, _, hexec, by rw [readBytes_storeCounter _ _ hwf, hsum]; rfl,
      fun b hb => readByte_storeCounter_outside _ hwf hb⟩
  · exact ⟨idleLatch s.draws, s.draws + 1, exec_cadd_of_error (caddError_eq_some hout)⟩

end Sys2Proof.Machine
end

section
/-! PROOFS. The keystream family: rounding and NM16 (R83, R84), HGEN (R85), and KGEN with its increment (R75 to R82). -/

namespace Sys2Proof.Machine

/-! ### Rounding to 16 -/

theorem le_nm16 (n : Int) : n ≤ nm16 n := by unfold nm16; omega

theorem nm16_emod (n : Int) : nm16 n % 16 = 0 := by unfold nm16; omega

theorem nm16_sub_lt (n : Int) : nm16 n - n < 16 := by unfold nm16; omega

/-- The multiples of 16 are 16 apart, so only one lies in `[n, n + 16)`. -/
theorem eq_nm16 {n r : Int} (hle : n ≤ r) (hmod : r % 16 = 0) (hlt : r - n < 16) : r = nm16 n := by
  have hle' := le_nm16 n
  have hmod' := nm16_emod n
  have hlt' := nm16_sub_lt n
  omega

/-- Settles O33: the formula of R84 is the definition of `nm16`, and a multiple of 16 has the three properties for
itself. -/
theorem roundingToSixteen : Obligations.RoundingToSixteen := fun n =>
  ⟨le_nm16 n, nm16_emod n, nm16_sub_lt n, fun hn => (eq_nm16 le_rfl hn (by omega)).symm,
    fun _ hle hmod hlt => ⟨eq_nm16 hle hmod hlt, eq_nm16 hle hmod hlt⟩⟩

/-- The rounded value is no int64 exactly above the largest multiple of 16 that is one (R83). -/
theorem nm16_gt_iff (n : Int) : nm16 n > 2 ^ 63 - 1 ↔ 2 ^ 63 - 16 < n := by
  have hle := le_nm16 n
  have hmod := nm16_emod n
  have hlt := nm16_sub_lt n
  omega

theorem nm16Error_eq (n : Int) : nm16Error n = if 2 ^ 63 - 16 < n then some .invalidArgument else none := by
  simp only [nm16Error, firstError_cons, firstError_nil, nm16_gt_iff, decide_eq_true_eq]

/-! ### A command that raises an error, or that writes no byte -/

/-- A command that raises an error does nothing but complete with its code (R106). -/
theorem State.concludeCommand_of_error {i : Instr} {s : State} {e : CmdError}
    (h : checkError s.memSize s.latch.x i = some e) :
    s.concludeCommand i = s.completed e.code (idleLatch s.draws) (s.draws + 1) := by
  rw [State.concludeCommand, h, State.conclude_some]
  rfl

/-- A race with a command that writes no byte takes a draw and nothing else. -/
theorem State.settleRace_no_bytes {sp : Span} (s : State) (h : sp.len = 0) :
    ∃ n, s.settleRace sp = { s with draws := n } := by
  have hfill (f : Nat → Byte) (m : Memory) : fillSpan f sp m = m := by simp [fillSpan, spanBytes, h, writeBytes]
  unfold State.settleRace
  split
  · exact ⟨s.draws + 1, by rw [hfill]⟩
  · exact ⟨s.draws, rfl⟩

/-- A command that passes its checks and writes no byte completes with OK after its pseudocode, race or no race. -/
theorem State.concludeCommand_no_bytes {i : Instr} {s : State} (hcheck : checkError s.memSize s.latch.x i = none)
    (hspan : (writeSpan s.memSize s.latch.x i).len = 0) :
    ∃ l n, s.concludeCommand i = (commandBody s.latch.x i s).completed .ok l n := by
  obtain ⟨n, hrace⟩ := State.settleRace_no_bytes (commandBody s.latch.x i s) hspan
  refine ⟨idleLatch n, n + 1, ?_⟩
  rw [State.concludeCommand, hcheck, State.conclude_none, hrace]
  rfl

/-! ### NM16 and HGEN -/

/-- Settles O34: the check decides between the rounded value and INVALID_ARGUMENT. -/
theorem nm16RoundsUp : Obligations.Nm16RoundsUp := by
  refine ⟨decode_encode (i := .nm16) rfl, fun s => ⟨fun hn => ?_, fun hn => ?_⟩⟩
  · have hcheck : checkError s.memSize s.latch.x .nm16 = none := (nm16Error_eq _).trans (if_neg (not_lt.2 hn))
    obtain ⟨l, n, hend⟩ := State.concludeCommand_no_bytes hcheck (by rw [writeSpan_of_ok hcheck]; rfl)
    exact ⟨l, n, by rw [exec_eq s (by decide), hend]; rfl⟩
  · have hcheck : checkError s.memSize s.latch.x .nm16 = some .invalidArgument := (nm16Error_eq _).trans (if_pos hn)
    exact ⟨_, _, by rw [exec_eq s (by decide), State.concludeCommand_of_error hcheck]; rfl⟩

/-- Settles O30: HGEN raises its error in every state. -/
theorem hgenIsNotImplemented : Obligations.HgenIsNotImplemented :=
  ⟨decode_encode (i := .hgen) rfl, fun s =>
    ⟨_, _, by rw [exec_eq s (by decide), State.concludeCommand_of_error rfl]; rfl⟩⟩

/-! ### The increment -/

/-- Settles O36: both add 1 modulo 2^128, since index 15 has the weight 1. -/
theorem incrementIsOneByteStep : Obligations.IncrementIsOneByteStep := by
  intro v
  obtain ⟨hbyte, hadd⟩ := counterAddIsAdditionModulo
  refine Counter.ext_be ?_
  rw [hadd, hbyte]
  simp

/-- Incrementing j times adds j modulo 2^128. -/
theorem be_counterAdd_iterate (v : Counter) (j : Nat) :
    be ((fun v => counterAdd v 1)^[j] v).toList = (be v.toList + j) % 2 ^ 128 := by
  induction j with
  | zero => exact (Nat.mod_eq_of_lt (Counter.be_lt v)).symm
  | succ j ih =>
    rw [Function.iterate_succ_apply', be_counterAdd, ih, Nat.mod_add_mod]
    rfl

/-! ### KGEN -/

/-- A counter is the sixteen big-endian bytes of its value (R14). -/
theorem Counter.toList_eq_bytesBE (v : Counter) : v.toList = bytesBE 16 (be v.toList) := by
  have hbytes := bytesBE_be v.toList
  rw [Vector.length_toList] at hbytes
  exact hbytes.symm

/-- The offset is added unscaled to the seed's value (R79). -/
theorem be_kgenStart_ctr {a : KgenArgs} (s : State) (hlo : 0 ≤ a.offset) (hhi : a.offset < 2 ^ 63) :
    be (kgenStart a s).ctr.toList = (be (readBytes s.buf a.seedAddr 16) + a.offset.toNat) % 2 ^ 128 := by
  have hoffset : (BitVec.ofInt 64 a.offset).toNat = a.offset.toNat := by
    rw [BitVec.toNat_ofInt, Int.emod_eq_of_lt hlo (by omega)]
  rw [kgenStart_ctr, be_counterAdd, toList_loadCounter, hoffset]

/-- Block j of KGEN's output is the seed's value plus the offset plus j, modulo 2^128 (R77). -/
theorem readBytes_kgenBody {a : KgenArgs} {s : State} {j : Nat} (hwf : Memory.wf s.buf = true) (hlo : 0 ≤ a.offset)
    (hhi : a.offset < 2 ^ 63) (hj : j < blocks a.size) :
    readBytes (kgenBody a s).buf (a.outAddr + 16 * j) 16 =
      bytesBE 16 ((be (readBytes s.buf a.seedAddr 16) + a.offset.toNat + j) % 2 ^ 128) := by
  have hblock : loadCounter (kgenBody a s).buf (a.outAddr + 16 * j) =
      (fun v => counterAdd v 1)^[j] (kgenStart a s).ctr :=
    loadCounter_kgenLoop (w := 0) (by rwa [kgenStart_buf]) hj
  rw [← toList_loadCounter, hblock, Counter.toList_eq_bytesBE, be_counterAdd_iterate, be_kgenStart_ctr s hlo hhi,
    Nat.mod_add_mod]

/-- KGEN writes no byte outside its whole blocks (R78). -/
theorem readByte_kgenBody_outside {a : KgenArgs} {s : State} {b : Nat} (hwf : Memory.wf s.buf = true)
    (hb : b < a.outAddr ∨ a.outAddr + 16 * blocks a.size ≤ b) :
    readByte (kgenBody a s).buf b = readByte s.buf b := by
  rw [kgenBody, readByte_kgenLoop_outside (by rwa [kgenStart_buf]) (by omega), kgenStart_buf]

/-- The pseudocode of KGEN writes CTR and BUF alone. -/
theorem kgenBody_frame (a : KgenArgs) (s : State) :
    ∃ c, kgenBody a s = { s with buf := (kgenBody a s).buf, ctr := c } := by
  obtain ⟨c, m, hloop⟩ := kgenLoop_frame a.outAddr (blocks a.size) 0 (kgenStart a s)
  refine ⟨c, ?_⟩
  rw [kgenBody, hloop]
  simp only [kgenStart]

/-- A KGEN that passes its checks and meets no race has the effect of its pseudocode on BUF, and completes with OK
(R75, R93). -/
theorem exec_kgen_of_ok {s : State} (hraced : s.raced = false)
    (h : kgenError s.memSize (kgenArgs s.latch.x) = none) :
    exec .kgen s = .next { s.completed .ok (idleLatch s.draws) (s.draws + 2) with
      buf := (kgenBody (kgenArgs s.latch.x) s).buf, ctr := idleCtr (s.draws + 1) } := by
  obtain ⟨c, hbody⟩ := kgenBody_frame (kgenArgs s.latch.x) s
  rw [exec_kgen, State.concludeCommand, checkError, h, State.conclude_none, commandBody,
    State.settleRace_quiet _ (by rw [kgenBody_raced, hraced]), hbody]
  rfl

/-- Settles O39: the blocks of the output, and the bytes outside it; nm16(SIZE) is 16 for each block. -/
theorem kgenWritesTheKeystream : Obligations.KgenWritesTheKeystream := by
  intro s hwf hraced hseedLen hsize hoffset hseed hout hfits
  have hcheck : kgenError s.memSize (kgenArgs s.latch.x) = none :=
    (kgenError_eq_none _ _).2 ⟨hseedLen, hsize, hoffset, hseed, hout, hfits⟩
  have hblocks := sixteen_mul_blocks hsize
  refine ⟨_, _, _, _, exec_kgen_of_ok hraced hcheck, fun j hj => ?_, fun b hb => ?_⟩
  · exact readBytes_kgenBody hwf hoffset (s64_lt _) (by simp only [kgenArgs]; omega)
  · exact readByte_kgenBody_outside hwf (by simp only [kgenArgs]; omega)

/-- The code of the first of K1 to K6 that fails (R75, R108). -/
theorem kgenError_code (memSize : Nat) (a : KgenArgs) :
    ((kgenError memSize a).map CmdError.code).getD .ok =
      if a.seedLen ≠ 16 then .invalidArgument
      else if a.size < 0 then .invalidArgument
      else if a.offset < 0 then .invalidArgument
      else if memSize < a.seedAddr + 16 then .outOfBounds
      else if memSize < a.outAddr + a.outLen then .outOfBounds
      else if (a.outLen : Int) < nm16 a.size then .outOfBounds
      else .ok := by
  rw [kgenError_eq]
  split_ifs <;> rfl

/-- Settles O40: ERR is the code of the first check that fails, and a KGEN that raises an error does nothing else but
end the life of CTR. -/
theorem kgenChecksInOrder : Obligations.KgenChecksInOrder := by
  intro s
  have herr := exec_err (exec_kgen s)
  refine ⟨_, exec_kgen s, herr.trans (kgenError_code _ _), fun hfails => ?_⟩
  cases hcheck : checkError s.memSize s.latch.x .kgen with
  | none => exact absurd (by rw [herr, hcheck]; rfl) hfails
  | some e =>
    rw [State.concludeCommand_of_error hcheck]
    exact ⟨idleLatch s.draws, s.draws + 2, idleCtr (s.draws + 1), rfl⟩

/-- With SIZE 0 there is no block, and only CTR changes. -/
theorem kgenBody_of_size_zero {a : KgenArgs} (s : State) (h : a.size = 0) : kgenBody a s = kgenStart a s := by
  rw [kgenBody, h]
  rfl

/-- Settles O41: the checks pass whatever OUT_LEN is, and neither the pseudocode nor a race changes a byte. -/
theorem kgenOfSizeZero : Obligations.KgenOfSizeZero := by
  intro s hseedLen hsize hoffset hseed hout
  have hnm16 : nm16 (kgenArgs s.latch.x).size = 0 := by rw [kgenArgs, hsize]; rfl
  have hcheck : checkError s.memSize s.latch.x .kgen = none :=
    (kgenError_eq_none _ _).2 ⟨hseedLen, hsize.ge, hoffset, hseed, hout, by omega⟩
  have hspan : (writeSpan s.memSize s.latch.x .kgen).len = 0 := by
    rw [writeSpan_of_ok hcheck]
    simp only [KgenArgs.span, hnm16, Int.toNat_zero]
  obtain ⟨l, n, hend⟩ := State.concludeCommand_no_bytes hcheck hspan
  refine ⟨l, n + 1, idleCtr n, ?_⟩
  rw [exec_kgen, hend, commandBody, kgenBody_of_size_zero s hsize, kgenStart]
  generalize counterAdd _ _ = c
  rfl

end Sys2Proof.Machine
end

section
/-! PROOFS. The XOR applicator: the lanes of XAPPLY (R87) and its checks in order (R86, R88), the involution (R90), and
KGEN's output as the key (R91). -/

namespace Sys2Proof.Machine

/-! ### The lanes -/

/-- Where the checks pass, X7 among them, and there is a lane at all, the source lanes and the used key bytes do not
meet (R86, R88). -/
theorem XapplyArgs.lanes_disjoint {n : Nat} {a : XapplyArgs} (hcheck : xapplyError n a = none)
    (hlane : 0 < a.length.toNat) :
    a.srcAddr + a.length.toNat ≤ a.keyStart ∨ a.keyStart + a.length.toNat ≤ a.srcAddr := by
  obtain ⟨-, hoffset, -, -, -, -, hoverlap⟩ := (xapplyError_eq_none _ _).1 hcheck
  rw [← Bool.not_eq_true, xapplyOverlap_iff] at hoverlap
  unfold XapplyArgs.keyStart
  omega

/-- XAPPLY writes no byte outside its source lanes. -/
theorem readByte_xapplyBody_outside {a : XapplyArgs} {s : State} {b : Nat} (hwf : Memory.wf s.buf = true)
    (hb : b < a.srcAddr ∨ a.srcAddr + a.length.toNat ≤ b) :
    readByte (xapplyBody a s).buf b = readByte s.buf b := by
  rw [xapplyBody_buf]
  exact readByte_xorLoop_outside hwf hb

theorem wf_xapplyBody (a : XapplyArgs) {s : State} (hwf : Memory.wf s.buf = true) :
    Memory.wf (xapplyBody a s).buf = true := by
  rw [xapplyBody_buf]
  exact wf_xorLoop _ _ _ _ hwf

section checked

variable {n : Nat} {a : XapplyArgs} {s : State} (hcheck : xapplyError n a = none) (hwf : Memory.wf s.buf = true)
include hcheck hwf

/-- Where the checks pass, source byte j becomes its XOR with byte j of the used key (R87). -/
theorem readByte_xapplyBody_lane {j : Nat} (hj : j < a.length.toNat) :
    readByte (xapplyBody a s).buf (a.srcAddr + j) =
      readByte s.buf (a.srcAddr + j) ^^^ readByte s.buf (a.keyStart + j) := by
  have hdisjoint := XapplyArgs.lanes_disjoint hcheck (by omega)
  rw [xapplyBody_buf]
  exact readByte_xorLoop_lane hwf (by omega) (by omega)

/-- Where the checks pass, XAPPLY does not write its own key (R88). -/
theorem readByte_xapplyBody_key {j : Nat} (hj : j < a.length.toNat) :
    readByte (xapplyBody a s).buf (a.keyStart + j) = readByte s.buf (a.keyStart + j) := by
  have hdisjoint := XapplyArgs.lanes_disjoint hcheck (by omega)
  exact readByte_xapplyBody_outside hwf (by omega)

/-- The source lanes and the bytes outside them determine BUF after an XAPPLY whose checks pass. -/
theorem xapplyBody_buf_eq {m : Memory} (hm : Memory.wf m = true)
    (hlane : ∀ j, j < a.length.toNat →
      readByte s.buf (a.srcAddr + j) ^^^ readByte s.buf (a.keyStart + j) = readByte m (a.srcAddr + j))
    (hout : ∀ b, b < a.srcAddr ∨ a.srcAddr + a.length.toNat ≤ b → readByte s.buf b = readByte m b) :
    (xapplyBody a s).buf = m := by
  refine Memory.ext_read (wf_xapplyBody a hwf) hm fun b => ?_
  by_cases hb : b < a.srcAddr ∨ a.srcAddr + a.length.toNat ≤ b
  · rw [readByte_xapplyBody_outside hwf hb, hout b hb]
  · obtain ⟨j, rfl⟩ : ∃ j, b = a.srcAddr + j := ⟨b - a.srcAddr, by omega⟩
    rw [readByte_xapplyBody_lane hcheck hwf (by omega), hlane j (by omega)]

/-- An all-zero used key leaves BUF as it was (R90). -/
theorem xapplyBody_buf_of_zero_key (hkey : ∀ j, j < a.length.toNat → readByte s.buf (a.keyStart + j) = 0) :
    (xapplyBody a s).buf = s.buf :=
  xapplyBody_buf_eq hcheck hwf hwf (fun j hj => by rw [hkey j hj]; exact BitVec.xor_zero) fun _ _ => rfl

/-- A second XAPPLY finds the same key and cancels the first, lane by lane (R90). -/
theorem xapplyBody_buf_involutive {t : State} (ht : t.buf = (xapplyBody a s).buf) :
    (xapplyBody a t).buf = s.buf := by
  refine xapplyBody_buf_eq hcheck (by rw [ht]; exact wf_xapplyBody a hwf) hwf (fun j hj => ?_) fun b hb => ?_
  · rw [ht, readByte_xapplyBody_lane hcheck hwf hj, readByte_xapplyBody_key hcheck hwf hj, BitVec.xor_assoc,
      BitVec.xor_self, BitVec.xor_zero]
  · rw [ht, readByte_xapplyBody_outside hwf hb]

end checked

/-! ### The completion step -/

/-- An XAPPLY that raises an error does nothing but complete with its code (R106). -/
theorem exec_xapply_of_error {s : State} {e : CmdError} (h : xapplyError s.memSize (xapplyArgs s.latch.x) = some e) :
    exec .xapply s = .next (s.completed e.code (idleLatch s.draws) (s.draws + 1)) := by
  rw [exec_eq s (by decide), State.concludeCommand_of_error (i := .xapply) h]

/-- An XAPPLY that passes its checks and meets no race has the effect of its pseudocode on BUF, and completes with OK
(R86, R93). -/
theorem exec_xapply_of_ok {s : State} (hraced : s.raced = false)
    (h : xapplyError s.memSize (xapplyArgs s.latch.x) = none) :
    exec .xapply s = .next { s.completed .ok (idleLatch s.draws) (s.draws + 1) with
      buf := (xapplyBody (xapplyArgs s.latch.x) s).buf } := by
  rw [exec_eq s (by decide), State.concludeCommand, checkError, h, State.conclude_none, commandBody,
    State.settleRace_quiet _ (by rw [xapplyBody_raced, hraced])]
  simp only [xapplyBody]
  rfl

/-- Settles O42: the lanes, and the bytes outside them. -/
theorem xapplyCombinesLanes : Obligations.XapplyCombinesLanes := by
  intro s hwf hraced hlength hoffset hsrc hkey hfitsSrc hfitsKey hdisjoint
  have hoverlap : xapplyOverlap (xapplyArgs s.latch.x) = false := by
    rw [← Bool.not_eq_true, xapplyOverlap_iff]
    simp only [xapplyArgs]
    omega
  have hcheck : xapplyError s.memSize (xapplyArgs s.latch.x) = none :=
    (xapplyError_eq_none _ _).2 ⟨hlength, hoffset, hsrc, hkey, hfitsSrc, hfitsKey, hoverlap⟩
  refine ⟨_, _, _, exec_xapply_of_ok hraced hcheck, fun j hj => ?_, fun b hb => ?_⟩
  · rw [Nat.add_comm j, ← Nat.add_assoc]
    exact readByte_xapplyBody_lane hcheck hwf (Int.lt_toNat.2 hj)
  · exact readByte_xapplyBody_outside hwf (by simp only [xapplyArgs]; omega)

/-- The code of the first of X1 to X7 that fails (R86, R108). -/
theorem xapplyError_code (memSize : Nat) (a : XapplyArgs) :
    ((xapplyError memSize a).map CmdError.code).getD .ok =
      if a.length < 0 then .invalidArgument
      else if a.keyOffset < 0 then .invalidArgument
      else if memSize < a.srcAddr + a.srcLen then .outOfBounds
      else if memSize < a.keyAddr + a.keyLen then .outOfBounds
      else if (a.srcLen : Int) < a.length then .outOfBounds
      else if (a.keyLen : Int) < a.keyOffset + a.length then .outOfBounds
      else if 0 < a.length ∧ (a.srcAddr : Int) < a.keyAddr + a.keyOffset + a.length ∧
          (a.keyAddr : Int) + a.keyOffset < a.srcAddr + a.length then .invalidArgument
      else .ok := by
  simp only [xapplyError_eq, xapplyOverlap_iff]
  split_ifs <;> rfl

/-- Settles O43: ERR is the code of the first check that fails, and an XAPPLY that raises an error does nothing else. -/
theorem xapplyChecksInOrder : Obligations.XapplyChecksInOrder := by
  intro s
  have hexec := exec_eq s (i := .xapply) (by decide)
  have herr := exec_err hexec
  refine ⟨_, hexec, herr.trans (xapplyError_code _ _), fun hfails => ?_⟩
  cases hcheck : checkError s.memSize s.latch.x .xapply with
  | none => exact absurd (by rw [herr, hcheck]; rfl) hfails
  | some e =>
    rw [State.concludeCommand_of_error hcheck]
    exact ⟨idleLatch s.draws, s.draws + 1, rfl⟩

/-- Settles O44: the checks read neither BUF nor what a completion changes, so both XAPPLYs raise the same error, or
both pass and the second cancels the first. -/
theorem xapplyTwiceRestores : Obligations.XapplyTwiceRestores := by
  intro s hwf hraced
  cases hcheck : xapplyError s.memSize (xapplyArgs s.latch.x) with
  | some e =>
    exact ⟨_, _, exec_xapply_of_error hcheck, exec_xapply_of_error hcheck, rfl, rfl, fun _ => rfl, fun _ => rfl⟩
  | none =>
    exact ⟨_, _, exec_xapply_of_ok hraced hcheck, exec_xapply_of_ok rfl hcheck, rfl,
      xapplyBody_buf_involutive hcheck hwf rfl, fun hfails => absurd rfl hfails,
      fun hkey => xapplyBody_buf_of_zero_key hcheck hwf fun j hj => hkey j (Int.lt_toNat.1 hj)⟩

/-! ### The keystream as the key -/

/-- A byte of memory is a byte of any sequence read that covers it. -/
theorem getD_readBytes (m : Memory) (a : Nat) {n j : Nat} (d : Byte) (h : j < n) :
    (readBytes m a n).getD j d = readByte m (a + j) := by
  rw [List.getD_eq_getElem _ _ (by simpa using h), getElem_readBytes]

/-- Byte p of KGEN's output is byte p of the stream: byte p % 16 of block p / 16 (R77). -/
theorem readByte_kgenBody_stream {a : KgenArgs} {s : State} {p : Nat} (hwf : Memory.wf s.buf = true)
    (hlo : 0 ≤ a.offset) (hhi : a.offset < 2 ^ 63) (hp : p < 16 * blocks a.size) :
    readByte (kgenBody a s).buf (a.outAddr + p) =
      streamByte (be (readBytes s.buf a.seedAddr 16)) a.offset.toNat p := by
  have hbyte : a.outAddr + p = a.outAddr + 16 * (p / 16) + p % 16 := by omega
  rw [streamByte, ← readBytes_kgenBody hwf hlo hhi (by omega), getD_readBytes _ _ _ (by omega), hbyte]

/-- Settles O45: the key descriptor lies in KGEN's output, hence in BUF, so XAPPLY passes its checks; and its key byte j
is the output byte at the slice's distance plus KEY_OFFSET + j. -/
theorem keystreamFeedsXapply : Obligations.KeystreamFeedsXapply := by
  intro s x hwf hraced hkgen hlo hhi hlength hoffset hsrc hfitsSrc hfitsKey hoverlap
  obtain ⟨-, hsize, hseedOffset, -, hout, hfits⟩ := (kgenError_eq_none _ _).1 hkgen
  have hblocks := sixteen_mul_blocks hsize
  simp only [kgenArgs] at hsize hout hfits hblocks
  have hcheck : xapplyError s.memSize (xapplyArgs x) = none :=
    (xapplyError_eq_none _ _).2
      ⟨hlength, hoffset, hsrc, by simp only [xapplyArgs]; omega, hfitsSrc, hfitsKey, hoverlap⟩
  refine ⟨_, _, exec_kgen_of_ok hraced hkgen, exec_xapply_of_ok rfl hcheck, rfl, rfl, fun j hj => ?_⟩
  have hstream := readByte_kgenBody_stream (a := kgenArgs s.latch.x)
    (p := u64 x[2] - u64 s.latch.x[2] + (s64 x[5]).toNat + j) hwf hseedOffset (s64_lt _)
    (by simp only [kgenArgs]; omega)
  have hkeyByte : (xapplyArgs x).keyStart + j =
      (kgenArgs s.latch.x).outAddr + (u64 x[2] - u64 s.latch.x[2] + (s64 x[5]).toNat + j) := by
    simp only [XapplyArgs.keyStart, xapplyArgs, kgenArgs]
    omega
  refine (readByte_xapplyBody_lane hcheck (wf_commandBody s.latch.x .kgen hwf) (Int.lt_toNat.2 hj)).trans ?_
  rw [hkeyByte]
  exact congrArg _ hstream

end Sys2Proof.Machine
end

section
/-! PROOFS. Control: acceptance and dropping of a command issue (R92, R94, R95), the completion of any command (R93,
R106), and NOP and illegal commands (R96, R97). -/

namespace Sys2Proof.Machine

/-! ### The engine's turn -/

/-- A table row of 64 bits gives the whole word. -/
theorem tableWord_toNat (w : Word) : tableWord 64 w.toNat = w := by
  rw [tableWord, Nat.mod_eq_of_lt w.isLt, BitVec.ofNat_toNat, BitVec.setWidth_eq]

/-- A latch that has taken a word holds that word (R31). -/
theorem Latch.word_fields (w : Word) (x : Vector Word 6) : Latch.word ⟨opcOf w, rsvOf w, x⟩ = w :=
  commandWord_rsvOf_opcOf w

/-- The command that `withFetchWord` has just accepted is the one of its word. -/
theorem State.latched_withFetchWord (s : State) (w : Word) : (s.withFetchWord 64 w.toNat).latched = decode w := by
  rw [State.withFetchWord, tableWord_toNat]
  exact congrArg decode (Latch.word_fields w s.args)

/-- Settles O5: these are the two ways to the engine's turn. -/
theorem stepCompletesTheLatchedCommand : Obligations.StepCompletesTheLatchedCommand :=
  fun s hbusy hready => step_engine ((State.engineTurn_iff s).2 ⟨hbusy, hready⟩)

/-- Settles O6: an engine with no delay left is to move, and the latch holds the placed word. -/
theorem stepRunsTheFetchedWord : Obligations.StepRunsTheFetchedWord := by
  intro s w
  have hturn : (s.withFetchWord 64 w.toNat).engineTurn = true := (State.engineTurn_iff _).2 ⟨rfl, .inl rfl⟩
  refine ⟨?_, rfl, rfl, rfl, rfl⟩
  rw [step_engine hturn, State.latched_withFetchWord]

/-! ### A command issue -/

/-- Settles O7: the issue finds an idle engine, and only the completion delay is drawn. -/
theorem idleCmdWriteIsAccepted : Obligations.IdleCmdWriteIsAccepted := by
  intro s w rest hin hidle hr
  obtain ⟨d, ds, n, hdelay⟩ := State.drawDelay_frame (s.tick.latchCommand w)
  have hissue : writeReg (regAt 0x00) w s.tick = (s.tick.latchCommand w).drawDelay := State.issue_idle w hidle
  refine ⟨d, ds, n, ?_⟩
  rw [step_regWrite (State.engineTurn_idle hidle) hr hin rfl, hissue, hdelay]
  rfl

/-- Settles O8: the issue finds a busy engine. -/
theorem busyCmdWriteIsDropped : Obligations.BusyCmdWriteIsDropped := by
  intro s w rest hin hbusy hdelay hr
  have hturn : s.engineTurn = false := State.engineTurn_waits hdelay (by simp [hin])
  have hissue : writeReg (regAt 0x00) w s.tick = s.tick.flagsDropped := State.issue_busy w hbusy
  rw [step_regWrite hturn hr hin rfl, hissue]
  rfl

/-- No host transaction reaches the latch of a busy engine (R94, R127): only an accepted issue writes the latch. -/
theorem State.HostEffect.latch {s t : State} (h : s.HostEffect t) (hbusy : s.phase = .busy) : t.latch = s.latch := by
  cases h with
  | accept w hidle => exact nomatch hbusy.symm.trans hidle
  | bufRead n a => exact drawRead_latch n a s
  | ignored | nothing | drop | status | arg | bufWrite => rfl

/-- An input that finds the engine busy and leaves it busy keeps the latch: a reset or a power-on would stop it. -/
theorem deliver_latch {inp : Input} {s : State} (hbusy : s.phase = .busy) (h : (deliver inp s).1.phase = .busy) :
    (deliver inp s).1.latch = s.latch := by
  cases hinp : inp.isTransaction with
  | true => exact (deliver_effect s hinp).latch hbusy
  | false =>
    rw [deliver_event s hinp] at h
    cases inp with
    | reset hold | powerOn contents hold => cases h
    | regWrite | regRead | bufWrite | bufRead | wait => cases hinp

/-- Settles O9: a completion leaves the engine idle, and an input that leaves it busy keeps the latch. -/
theorem busyEngineKeepsItsLatch : Obligations.BusyEngineKeepsItsLatch := by
  intro s t h hs ht
  obtain ⟨-, hexec⟩ | ⟨-, rfl⟩ | ⟨inp, rest, -, -, rfl⟩ := step_cases h
  · obtain ⟨e, l, n, r, c, m, rfl⟩ := exec_frame hexec
    cases ht
  · rfl
  · exact deliver_latch (s := s.tick) hs ht

/-! ### The completion of any command -/

/-- No completion step faults or is refused. -/
theorem exists_exec_eq_next (i : Instr) (s : State) : ∃ t, exec i s = .next t := by
  by_cases hk : i = .kgen
  · exact ⟨_, hk ▸ exec_kgen s⟩
  · exact ⟨_, exec_eq s hk⟩

/-- Settles O23: the frame of the completion step keeps DROPPED, and ERR is the code of the first check that fails. -/
theorem everyCommandCompletes : Obligations.EveryCommandCompletes := by
  intro i s
  obtain ⟨t, hexec⟩ := exists_exec_eq_next i s
  have herr := exec_err hexec
  obtain ⟨e, l, n, r, c, m, rfl⟩ := exec_frame hexec
  refine ⟨_, hexec, rfl, rfl, rfl, herr.trans ?_⟩
  cases checkError s.memSize s.latch.x i with
  | none => rfl
  | some err => cases err <;> rfl

/-! ### NOP and illegal commands -/

/-- An illegal command completes with ILLEGAL_COMMAND and does nothing else (R97). -/
theorem exec_illegal (w : Word) (s : State) :
    exec (.illegal w) s = .next (s.completed .illegalCommand (idleLatch s.draws) (s.draws + 1)) := by
  rw [exec_eq (i := .illegal w) s nofun, State.concludeCommand_of_error rfl]
  rfl

/-- Settles O29: NOP has no check and no pseudocode, and writes no byte, race or no race. -/
theorem nopHasNoEffect : Obligations.NopHasNoEffect := by
  refine ⟨decode_encode (i := .nop) rfl, fun s => ?_⟩
  obtain ⟨l, n, hend⟩ := State.concludeCommand_no_bytes (i := .nop) (s := s) rfl rfl
  exact ⟨l, n, by rw [exec_eq s (by decide), hend]; rfl⟩

/-- Settles O31: such a word decodes to an illegal command. -/
theorem reservedWordsAreIllegal : Obligations.ReservedWordsAreIllegal := by
  intro w s hw
  rw [decode_illegal ((Instr.wf_illegal_iff w).2 hw)]
  exact ⟨_, _, exec_illegal w s⟩

/-- Settles O32: `exec_illegal`. -/
theorem illegalCommandCompletes : Obligations.IllegalCommandCompletes := fun w s => ⟨_, _, exec_illegal w s⟩

end Sys2Proof.Machine
end

section
/-! PROOFS. Exceptions: an error of a command changes no memory and no result (R106, R107), and every step answers a next
state (R101, R109, R132). -/

namespace Sys2Proof.Machine

/-- A completion with ERR other than 0x00 comes from a check that fails (R106): no other part of a command sets ERR. -/
theorem exists_checkError_of_exec_err {i : Instr} {s t : State} (h : exec i s = .next t) (herr : t.err ≠ .ok) :
    ∃ e, checkError s.memSize s.latch.x i = some e := by
  rw [exec_err h] at herr
  cases hcheck : checkError s.memSize s.latch.x i with
  | none =>
    rw [hcheck] at herr
    exact absurd rfl herr
  | some e => exact ⟨e, rfl⟩

/-- Settles O24: a check has failed, so the command does nothing but complete with its code; KGEN forgets CTR besides. -/
theorem failedCommandChangesNothing : Obligations.FailedCommandChangesNothing := by
  intro i s t h herr
  obtain ⟨e, hcheck⟩ := exists_checkError_of_exec_err h herr
  have hkept : (s.concludeCommand i).buf = s.buf ∧ (s.concludeCommand i).result = s.result := by
    rw [State.concludeCommand_of_error hcheck]
    exact ⟨rfl, rfl⟩
  obtain ⟨-, rfl⟩ | ⟨-, rfl⟩ := exec_cases h
  · exact hkept
  · exact hkept

/-- Settles O52: the engine's turn is a completion step, which answers for every command, and the host's answers by
definition. -/
theorem everyStepGoesOn : Obligations.EveryStepGoesOn := by
  intro s
  cases hturn : s.engineTurn with
  | true =>
    rw [step_engine hturn]
    exact exists_exec_eq_next s.latched s
  | false => exact ⟨hostStep s, step_host hturn⟩

end Sys2Proof.Machine
end

section
/-! PROOFS. Reset, power-on and an asserted reset (R121 to R123), the way of a busy engine to its completion step (R93,
R131), and races with a busy engine (R126). -/

namespace Sys2Proof.Machine

/-! ### Reset and power-on -/

/-- The registers and the engine as a reset leaves them: R36 gives the values. -/
structure State.Cleared (s : State) : Prop where
  args (i : Fin 6) : s.args[i] = 0
  result : s.result = 0
  status : s.status = 0
  phase : s.phase = .idle

theorem State.resetRegs_cleared (hold : Nat) (s : State) : (s.resetRegs hold).Cleared where
  args := show ∀ i : Fin 6, zeroArgs[i] = 0 by decide
  result := rfl
  status := State.status_eq_zero rfl rfl rfl rfl
  phase := rfl

/-- On the host's turn a reset or a power-on takes effect at once, also while reset is asserted (R121). -/
theorem step_event {s : State} {inp : Input} {rest : List Input} (hin : s.inputs = inp :: rest)
    (hturn : s.engineTurn = false) (hinp : inp.isTransaction = false) :
    step s = .next { (transact inp s.tick).1 with
      inputs := rest, transcript := (inp, (transact inp s.tick).2) :: s.transcript } := by
  have hwait : s.keepsWaiting inp = false := by
    cases inp with
    | wait => cases hinp
    | regWrite | regRead | bufWrite | bufRead | reset | powerOn => simp [State.keepsWaiting]
  rw [step_takes hin hturn, hostTakes, deliver_event s.tick hinp, hwait]
  rfl

/-- An abort changes no byte outside the write footprint of the command it stops (R122). -/
theorem State.readByte_abort_outside {s : State} {b : Nat} (hwf : Memory.wf s.buf = true)
    (hb : s.latchedWrites.contains b = false) : readByte s.abort.buf b = readByte s.buf b := by
  unfold State.abort
  split
  · rfl
  · exact readByte_fillSpan_outside _ hwf hb

/-- Settles O47: the reset clears the registers, and only the abort of a busy engine's command writes BUF. -/
theorem resetEvent : Obligations.ResetEvent := by
  intro s hold rest hwf hin hturn
  obtain ⟨hargs, hresult, hstatus, hphase⟩ := s.tick.abort.resetRegs_cleared hold
  exact ⟨_, step_event hin hturn rfl, hargs, hresult, hstatus, hphase, s.tick.abort_memSize, rfl, rfl,
    fun hidle => congrArg (·.buf) (State.abort_idle (s := s.tick) hidle),
    fun _ b hb => State.readByte_abort_outside (s := s.tick) hwf hb⟩

/-- The content that a power-on gives to BUF (R123): the first entry of an address within BUF, and else 0. -/
theorem readByte_loadBuf (n : Nat) (cells : List Host.Cell) (a : Nat) :
    readByte (loadBuf n cells) a =
      if a < n then ((cells.find? fun c => decide (c.1 = a)).map Prod.snd).getD 0 else 0 := by
  induction cells with
  | nil => exact (ite_self _).symm
  | cons c cells ih =>
    obtain ⟨k, b⟩ := c
    have hwrite := readByte_writeByte k b a (Memory.wf_loadBuf n cells)
    rw [loadBuf, List.find?_cons]
    by_cases hka : k = a
    · subst hka
      by_cases hk : k < n
      · simp [hk, hwrite]
      · simp [hk, ih]
    · rw [decide_eq_false hka, ← ih]
      split
      · rw [hwrite, if_neg (Ne.symm hka)]
      · rfl

/-- Settles O48: power-on clears the registers as a reset does, and BUF is loaded anew. -/
theorem powerOnEvent : Obligations.PowerOnEvent := by
  intro s contents hold rest hin hturn
  obtain ⟨hargs, hresult, hstatus, hphase⟩ := s.tick.resetRegs_cleared hold
  exact ⟨_, step_event hin hturn rfl, hargs, hresult, hstatus, hphase, rfl, rfl, readByte_loadBuf s.memSize contents⟩

/-- Settles O49: the transaction is not delivered, and WAIT, which has read nothing, goes on. -/
theorem transactionsIgnoredInReset : Obligations.TransactionsIgnoredInReset := by
  intro s inp rest hin hinp hturn hr
  have hignored : deliver inp s.tick = ({ s.tick with resetHold := s.resetHold - 1 }, .ignored) := by
    simp [deliver, State.ignores, hinp, hr]
  have hwait : s.keepsWaiting inp = decide (inp = .wait) := by simp [State.keepsWaiting, hr]
  rw [step_takes hin hturn, hostTakes, hignored, hwait]
  simp only [decide_eq_true_eq]
  rfl

/-! ### The way to the completion step -/

/-- No host transaction stops a busy engine (R5): a reset or a power-on alone does. -/
theorem State.HostEffect.phase {s t : State} (h : s.HostEffect t) (hbusy : s.phase = .busy) : t.phase = .busy := by
  cases h with
  | accept w hidle => exact nomatch hbusy.symm.trans hidle
  | bufRead n a => rwa [drawRead_phase]
  | ignored | nothing | drop | status | arg | bufWrite => exact hbusy

/-- No host transaction changes how long a busy engine still waits: only an acceptance sets the delay. -/
theorem State.HostEffect.delay {s t : State} (h : s.HostEffect t) (hbusy : s.phase = .busy) : t.delay = s.delay := by
  cases h with
  | accept w hidle => exact nomatch hbusy.symm.trans hidle
  | bufRead n a => exact drawRead_delay n a s
  | ignored | nothing | drop | status | arg | bufWrite => rfl

/-- What a host step leaves in the inputs was there before. -/
theorem mem_of_mem_hostTakes_inputs {inp i : Input} {rest : List Input} {s : State}
    (h : i ∈ (hostTakes inp rest s).inputs) : i ∈ inp :: rest := by
  simp only [hostTakes] at h
  split at h
  · exact h
  · exact List.mem_cons_of_mem inp h

/-- A busy engine that no reset stops comes to its turn within `delay` host steps, by induction on the delay: each host
step shortens it, and keeps the latch. -/
theorem exists_run_to_engineTurn {s : State} (hbusy : s.phase = .busy)
    (hin : ∀ inp ∈ s.inputs, inp.isTransaction = true) :
    ∃ n u, n ≤ s.delay ∧ Host.Core.run core n s = .next u ∧ u.latch = s.latch ∧ u.engineTurn = true := by
  induction hdelay : s.delay generalizing s with
  | zero => exact ⟨0, s, le_rfl, rfl, rfl, (State.engineTurn_iff s).2 ⟨hbusy, .inl hdelay⟩⟩
  | succ d ih =>
    cases hinputs : s.inputs with
    | nil => exact ⟨0, s, Nat.zero_le _, rfl, rfl, (State.engineTurn_iff s).2 ⟨hbusy, .inr hinputs⟩⟩
    | cons inp rest =>
      rw [hinputs] at hin
      have hstep : step s = .next (hostTakes inp rest s) :=
        step_takes hinputs (State.engineTurn_waits (by simp [hdelay]) (by simp [hinputs]))
      have heffect := deliver_effect s.tick (hin inp List.mem_cons_self)
      have hd : (hostTakes inp rest s).delay = d := (heffect.delay hbusy).trans (by simp [hdelay])
      obtain ⟨n, u, hn, hrun, hlatch, hturn⟩ :=
        ih (s := hostTakes inp rest s) (heffect.phase hbusy) (fun i hi => hin i (mem_of_mem_hostTakes_inputs hi)) hd
      exact ⟨n + 1, u, Nat.succ_le_succ hn, (run_succ n hstep).trans hrun, hlatch.trans (heffect.latch hbusy), hturn⟩

/-- Settles O11: the engine comes to its turn with the same latch, and its completion step leaves it idle with
DONE = 1. -/
theorem busyEngineReachesItsCompletion : Obligations.BusyEngineReachesItsCompletion := by
  intro s hbusy hin
  obtain ⟨n, u, hn, hrun, hlatch, hturn⟩ := exists_run_to_engineTurn hbusy hin
  have hstep : step u = exec (decode s.latch.word) u := by
    rw [step_engine hturn, ← hlatch]
    rfl
  obtain ⟨t, ht⟩ := exists_exec_eq_next (decode s.latch.word) u
  refine ⟨n, u, t, hn, hrun, hlatch, hstep, hstep.trans ht, ?_⟩
  obtain ⟨e, l, k, r, c, m, rfl⟩ := exec_frame ht
  exact ⟨rfl, rfl⟩

/-! ### Races -/

/-- A host write races only with a command that has a footprint (R126). -/
theorem State.writeRaces_of_no_footprint {s : State} (hw : s.latchedWrites.len = 0) (hr : s.latchedReads = [])
    (a n : Nat) : s.writeRaces a n = false := by
  have hmeets : s.latchedWrites.meets a n = false := by
    rw [← Bool.not_eq_true, Span.meets_iff]
    rintro ⟨b, -, -, hb⟩
    rw [Span.contains_iff, hw] at hb
    exact absurd hb.2 (Nat.not_lt.2 hb.1)
  simp [State.writeRaces, hmeets, hr]

/-- A command that the host's write races with has passed its checks: after an error its footprints are empty (R45). -/
theorem State.checkError_of_writeRaces {s : State} {a n : Nat} (h : s.writeRaces a n = true) :
    checkError s.memSize s.latch.x s.latched = none := by
  by_contra hcheck
  obtain ⟨e, he⟩ := Option.ne_none_iff_exists'.1 hcheck
  refine Bool.false_ne_true ((State.writeRaces_of_no_footprint ?_ ?_ a n).symm.trans h)
  · rw [State.latchedWrites, writeSpan_of_error he]
    rfl
  · rw [State.latchedReads, readSpans_of_error he]

/-- NM16 has no footprint (R45). -/
theorem State.latched_ne_nm16_of_writeRaces {s : State} {a n : Nat} (h : s.writeRaces a n = true) :
    s.latched ≠ .nm16 := by
  have hcheck := State.checkError_of_writeRaces h
  intro hnm16
  refine Bool.false_ne_true ((State.writeRaces_of_no_footprint ?_ ?_ a n).symm.trans h)
  · rw [State.latchedWrites, writeSpan_of_ok hcheck, hnm16]
    rfl
  · rw [State.latchedReads, readSpans_of_ok hcheck, hnm16]

/-- A racing BUF read takes a draw and changes nothing else (R126). -/
theorem transact_bufRead_racing {s : State} {n a : Nat} (hserves : bufPortServes s.memSize n a = true)
    (hrace : s.readRaces a n = true) :
    transact (.bufRead n a) s = ({ s with draws := s.draws + 1 }, .value (hostReadBuf s n a)) := by
  simp [transact, hserves, drawRead, hrace]

/-- The completion of a command that passes its checks and is no NM16: OK, no register but CTR for KGEN, and no byte
outside its write footprint, race or no race (R93, R126). -/
theorem exec_completes_ok {i : Instr} {s : State} (hcheck : checkError s.memSize s.latch.x i = none)
    (hi : i ≠ .nm16) (hwf : Memory.wf s.buf = true) :
    ∃ l k c m, exec i s = .next { s.completed .ok l k with buf := m, ctr := c } ∧ (i ≠ .kgen → c = s.ctr) ∧
      ∀ b, (writeSpan s.memSize s.latch.x i).contains b = false → readByte m b = readByte s.buf b := by
  obtain ⟨t, hexec⟩ := exists_exec_eq_next i s
  have herr := exec_err hexec
  have hresult : t.result = s.result := by_contra fun hr => hi (exec_result_changes hexec hr).1
  have hctr := exec_ctr hexec
  have hbuf := fun b => readByte_exec_outside (b := b) hwf hexec
  obtain ⟨e, l, k, r, c, m, rfl⟩ := exec_frame hexec
  obtain rfl : e = .ok := by rw [hcheck] at herr; exact herr
  obtain rfl : r = s.result := hresult
  exact ⟨l, k, c, m, hexec, hctr, hbuf⟩

/-- Settles O22: a racing read takes a draw; a racing write stores its bytes and marks the race, which only a command
that passes its checks and is no NM16 can meet, so that the completion keeps to its write footprint. -/
theorem racesStayInTheWriteFootprint : Obligations.RacesStayInTheWriteFootprint := by
  intro s rest n a v hwf hturn hr hbusy hwidth halign hfits
  have hserves : bufPortServes s.memSize n a = true := (bufPortServes_iff _ _ _).2 ⟨hwidth, halign, hfits⟩
  refine ⟨fun hin hrace => ?_, fun hin hrace => ?_⟩
  · refine ⟨hostReadBuf s.tick n a, s.draws + 1, ?_⟩
    rw [step_takes hin hturn, hostTakes_served rest hr (by simp),
      transact_bufRead_racing (s := s.tick) hserves hrace]
    rfl
  · have hcheck := State.checkError_of_writeRaces hrace
    have hraced : (s.tick.raced || s.tick.writeRaces a n) = true := by
      rw [show s.tick.writeRaces a n = true from hrace, Bool.or_true]
    refine ⟨writeBytes s.buf a (bytesBE n v.toNat), _, rfl, ?_, ?_, fun b hb => ?_, hcheck, ?_⟩
    · rw [step_bufWrite hturn hr hin hserves, hostWriteBuf, hraced]
      rfl
    · simpa using readBytes_writeBytes a (bytesBE n v.toNat) hwf
    · exact readByte_writeBytes_outside hwf (by rwa [length_bytesBE])
    · exact exec_completes_ok hcheck (State.latched_ne_nm16_of_writeRaces hrace) (Memory.wf_writeBytes _ _ hwf)

end Sys2Proof.Machine
end
